-- ==== Sys2Proof/Word.lean ====
section
/-! DEFINITION. The word types of the block (00_scope.md R11, R12): unsigned values of 8, 16 and 32 bits and byte sequences. -/

namespace Sys2Proof

/-- A u8 (R11). -/
abbrev Byte := BitVec 8

/-- A u16 (R11). -/
abbrev Half := BitVec 16

/-- A u32 (R11). -/
abbrev Word := BitVec 32

/-- A byte sequence, index 0 first on the wire (R12). -/
abbrev Bytes := List Byte

end Sys2Proof
end

