-- ==== Sys2Proof/Machine/Bytes.lean ====
section
/-! DEFINITION. Bit numbering, byte order and slices (00_scope.md R10 to R12, 20_memory.md R50 to R52). -/

namespace Sys2Proof.Machine

/-- `b[i]`: bit `i` of a byte, bit 0 least significant (R10, R11). -/
def bit (b : Byte) (i : Nat) : Bool := b.getLsbD i

/-- `le16(v)` (R12). -/
def le16 (v : Half) : Bytes := [v.setWidth 8, (v >>> 8).setWidth 8]

/-- `le32(v)` (R12). -/
def le32 (v : Word) : Bytes :=
  [v.setWidth 8, (v >>> 8).setWidth 8, (v >>> 16).setWidth 8, (v >>> 24).setWidth 8]

/-- `be32(v)`: the reverse of `le32(v)` (R12). -/
def be32 (v : Word) : Bytes := (le32 v).reverse

/-- `b0 | (b1 << 8)` (R50). -/
def u16le (b0 b1 : Byte) : Half := b0.setWidth 16 ||| (b1.setWidth 16 <<< 8)

/-- `b0 | (b1 << 8) | (b2 << 16) | (b3 << 24)` (R50). -/
def u32le (b0 b1 b2 b3 : Byte) : Word :=
  b0.setWidth 32 ||| (b1.setWidth 32 <<< 8) ||| (b2.setWidth 32 <<< 16) ||| (b3.setWidth 32 <<< 24)

/-- `s[i..i+n)` (R12). -/
def slice (s : Bytes) (i n : Nat) : Bytes := (s.drop i).take n

/-- `ceil8(n)` = `(n + 7) div 8` (R11). -/
def ceil8 (n : Nat) : Nat := (n + 7) / 8

/-- `serial_int(s)`, the low-byte-first value of a serial number, for display only: no rule of the block computes it (R52). -/
def serialInt : Bytes → Nat
  | [] => 0
  | b :: s => b.toNat + 256 * serialInt s

/-- The `k` low bytes of a number, least significant first. -/
def bytesOfNat : Nat → Nat → Bytes
  | 0, _ => []
  | k + 1, w => BitVec.ofNat 8 w :: bytesOfNat k (w / 256)

end Sys2Proof.Machine
end

