-- ==== Sys2Proof/Config.lean ====
section
/-! DEFINITION. The parameters of 00_scope.md R8: configuration, fixed for a run (10_state.md R43). The constants the spec fixes are definitions; the parameters "the model takes as arguments" are one structure of plain data, carried by State (log 1). There is no free value: the spec leaves no result open. -/

namespace Sys2Proof.Config

/-- `SEQ_W`: width of SEQ in bits (R8, decision D4). -/
def seqW : Nat := 8

/-- `MIN_HEADER`: bytes before the information field (R8, 30_encoding.md R65). -/
def minHeader : Nat := 2

/-- `CFG_BLOCK_SIZE`: bytes per configuration block (R8). -/
def cfgBlockSize : Nat := 14

/-- `RSCB_ADDR_BITS`: width of the block start address (R8). -/
def rscbAddrBits : Nat := 6

/-- `CMD_RSCB`: command code of ReadSystemConfigurationBlock (R8, 30_encoding.md R70). -/
def cmdRscb : Byte := 0x01

/-- `CMD_INV`: command code of TagInventory (R8, 30_encoding.md R70). -/
def cmdInv : Byte := 0x31

/-- `POLL_MS`, informative: no rule of the block reads it (R9, R167). -/
def pollMs : Nat := 100

/-- `TIMEOUT_MS`, the transport's default, informative: no rule of the block reads it (R9, R167). -/
def timeoutMs : Nat := 5000

/-- The classes of a received PCB (30_encoding.md R69). -/
inductive PcbKind where
  | iBlock
  | sBlock
  | other
  deriving DecidableEq, Repr

/-- The policies of `SEQ_CHECK` (R8, 43_response_decoders.md R115). -/
inductive SeqCheck where
  | ignore
  | flag
  | error
  deriving DecidableEq, Repr

/-- The values of `STOP_TIMEOUT_ORDER` (R8, 20_memory.md R51). -/
inductive ByteOrder where
  | le
  | be
  deriving DecidableEq, Repr

/-- One row of the classifier `pcb_kind`: a PCB `p` with `p &&& mask = value` has class `kind` (log 2). -/
structure PcbRule where
  mask  : Byte
  value : Byte
  kind  : PcbKind
  deriving DecidableEq, Repr

/-- The parameters of R8 that are not constants of the spec. `none` for a capacity is "unbounded". -/
structure Params where
  pcbIBase          : Byte            -- PCB_I_BASE
  pcbSResync        : Byte            -- PCB_S_RESYNC, all eight bits (log 21)
  pcbRules          : List PcbRule    -- pcb_kind: the first row that fits, else OTHER
  respSeqToggle     : Bool            -- RESP_SEQ_TOGGLE
  seqCheck          : SeqCheck        -- SEQ_CHECK
  resyncAwaits      : Bool            -- RESYNC_AWAITS_RESPONSE
  validCmds         : List Byte       -- VALID_CMDS
  knownAirProtocols : List Byte       -- KNOWN_AIR_PROTOCOLS
  stopTime          : Byte            -- STOP_TIME
  stopAttempts      : Byte            -- STOP_ATTEMPTS
  stopTags          : Byte            -- STOP_TAGS
  stopUncond        : Byte            -- STOP_UNCOND
  stopTimeoutOrder  : ByteOrder       -- STOP_TIMEOUT_ORDER
  rxBufMax          : Option Nat      -- RX_BUF_MAX
  txFrameMax        : Option Nat      -- TX_FRAME_MAX
  deriving DecidableEq, Repr

/-- The reference configuration of 95_test_vectors.md section 0 (decisions and reference values of R8, and the test configuration of D19a and D21 where R8 gives no reference). DESIGN CHOICE, log 1: these OPEN values are not claims about the device. -/
def Params.reference : Params where
  pcbIBase          := 0x00
  pcbSResync        := 0xC0
  pcbRules          := [⟨0x80, 0x00, .iBlock⟩, ⟨0xC0, 0xC0, .sBlock⟩]
  respSeqToggle     := true
  seqCheck          := .flag
  resyncAwaits      := false
  validCmds         := [cmdRscb, cmdInv]
  knownAirProtocols := [0x01]
  stopTime          := 0x00
  stopAttempts      := 0x01
  stopTags          := 0x02
  stopUncond        := 0x03
  stopTimeoutOrder  := .le
  rxBufMax          := none
  txFrameMax        := none

end Sys2Proof.Config
end

