-- ==== Sys2Proof/Syntax.lean ====
section
/-! DEFINITION. The host ops: one constructor per row of spec/opcode_table.json, operands as 30_encoding.md R79 and R81 give them. -/

namespace Sys2Proof

/-- The operands `type`, `T` and `V` of ENC_INV, present when `opt[2]` = 1 (42_command_codecs.md R106). -/
structure StopTrigger where
  type    : Byte
  timeout : Word
  value   : Half
  deriving DecidableEq, Repr

/-- A host op with its operands (30_encoding.md R79). The lengths `L` and `alen` are the lengths of the byte sequences. -/
inductive Instr where
  | openSession
  | resync (rid : Byte)
  | buildReq (rid : Byte) (info : Bytes)
  | encRscb (rid b1 count : Byte)
  | encInv (rid opt : Byte) (ant : Option Bytes) (stop : Option StopTrigger)
  | rxPush (bytes : Bytes)
  | decodeEnv
  | decodeResp
  | timeout
  | abandon
  | forceSeq (v : Byte)
  | curSet (p : Word)
  | curRd (n : Half)
  | curRd8
  | curRd16
  | curRd32
  deriving DecidableEq, Repr

end Sys2Proof
end

