-- ==== Sys2Proof/Machine/State.lean ====
section
/-! DEFINITION. The architectural state of the block as plain data (10_state.md), what an error reports (60_exceptions.md R137, R138), the reasons a model step or a host read can stop, and reset (R44). -/

namespace Sys2Proof.Machine

open Sys2Proof.Config

/-- The error kinds of `STATUS.ERR` (60_exceptions.md R137); its code 7 is never written, so it has no constructor (log 11). -/
inductive ErrKind where
  | none
  | truncated
  | lengthMismatch
  | invalidState
  | unknownProtocol
  | unsupported
  | timeout
  deriving DecidableEq, Repr

/-- The sub-reasons of 60_exceptions.md R138, one constructor per row of its table. -/
inductive Reason where
  | envelope
  | noCommandCode
  | field
  | cfgBytes
  | trailing
  | badSeq
  | resyncRequired
  | unexpectedResponse
  | wrongBlockType
  | commandMismatch
  | seqMismatch
  | unknownProtocol (byte : Byte)
  | opcode
  | hostFmt
  | reservedBit
  | noCommand
  | commandCode
  | airParams
  | stopType
  | embeddedCommand
  | chaining
  | noResponseCodec
  | timeout
  deriving DecidableEq, Repr

/-- An error raised inside a decoder: its reason and the offset it refers to (R138, R139). -/
structure Fail where
  reason : Reason
  pos    : Nat
  deriving DecidableEq, Repr

/-- The register STATUS (R32); `pos` is a natural number as R31 and R32 allow (log 12). -/
structure Status where
  err : ErrKind
  sub : Byte
  pos : Nat
  deriving DecidableEq, Repr

/-- The kind of the outstanding exchange, `PEND_KIND` (R24). -/
inductive PendKind where
  | iBlock
  | sBlock
  deriving DecidableEq, Repr

/-- Which result registers hold the last result, `RES_KIND` (R34). -/
inductive ResKind where
  | none
  | tx
  | env
  | rscb
  | inv
  | cur
  | resyncAck
  deriving DecidableEq, Repr

/-- A frame on its way to or from the wire (R41). -/
structure Frame where
  pcb  : Byte
  rid  : Byte
  info : Bytes
  deriving DecidableEq, Repr

/-- The tag memory field of a record (R39). -/
structure TagMemory where
  bits : Half
  data : Bytes
  deriving DecidableEq, Repr

/-- A tag record; a field is `some` exactly when its presence bit was 1 (R39). -/
structure TagRecord where
  ant    : Option Byte
  proto  : Option Byte
  ttype  : Option Byte
  serial : Option Bytes
  mem    : Option TagMemory
  deriving DecidableEq, Repr

/-- The contents of `CUR_DATA` (R40). -/
inductive CurData where
  | bytes (v : Bytes)
  | u8 (v : Byte)
  | u16 (v : Half)
  | u32 (v : Word)
  deriving DecidableEq, Repr

/-- What an agent puts on the block's inputs: an op word on the command port, delivered whole with its length (00_scope.md R16, R18), or the reset input (70_reset_and_hazards.md R153). -/
inductive Input where
  | op (word : Bytes)
  | reset
  deriving DecidableEq, Repr

/-- A cursor over a byte sequence (44_cursor.md R126). -/
structure Cursor where
  buf  : Bytes
  base : Nat
  pos  : Nat
  deriving DecidableEq, Repr

/-- The state of one block instance. Every register of R44, then the history of the run: the TX stream (R42) and whether a CALLER_ERR of the run has been cleared (70_reset_and_hazards.md R165(b), log 20), then what stands outside the registers: the index of the next op (R19), the inputs not yet taken (log 3) and the configuration, which no op writes (R43, log 1). -/
structure State where
  seq         : Byte              -- SEQ (R20, R21)
  await       : Bool              -- AWAIT (R23)
  pendKind    : PendKind          -- PEND_KIND (R24)
  pendCmd     : Byte              -- PEND_CMD (R25)
  pendSeq     : Bool              -- PEND_SEQ (R26)
  pendRid     : Byte              -- PEND_RID (R27)
  needResync  : Bool              -- NEED_RESYNC (R28)
  callerErr   : Bool              -- CALLER_ERR (R29)
  rxbuf       : Bytes             -- RXBUF (R30)
  curPos      : Nat               -- CUR_POS (R31)
  status      : Status            -- ERR, ERR_SUB, ERR_POS (R32)
  seqMismatch : Bool              -- SEQ_MISMATCH (R33)
  ridMismatch : Bool              -- RID_MISMATCH (R33)
  resKind     : ResKind           -- RES_KIND (R34)
  resValid    : Bool              -- RES_VALID (R34)
  txLast      : Bytes             -- TXLAST (R35)
  envPcb      : Byte              -- ENV_PCB (R36)
  envRid      : Byte              -- ENV_RID (R36)
  envInfo     : Bytes             -- ENV_INFO (R36)
  rscbBlocks  : Byte              -- RSCB_BLOCKS (R37)
  rscbData    : Bytes             -- RSCB_DATA (R37)
  invStop     : Byte              -- INV_STOP (R38)
  invTotal    : Half              -- INV_TOTAL (R38)
  invCount    : Byte              -- INV_COUNT (R38)
  invTags     : List TagRecord    -- INV_TAGS (R38, R39)
  curData     : CurData           -- CUR_DATA (R40)
  tx          : List Bytes        -- the TX stream, oldest frame first (R42)
  callerErrPast : Bool            -- a CALLER_ERR of this run has been cleared (R165(b), log 20)
  pc          : Nat               -- index of the next op (R19, log 5)
  port        : List Input        -- inputs not yet taken, next first (R16, log 3)
  cfg         : Params            -- the parameters of R8 (R43, log 1)
  deriving DecidableEq, Repr

/-- Why a run is faulty. No step raises a fault: every error of the block is a result in STATUS (60_exceptions.md). -/
inductive Fault where
  /-- A second request was built while one was outstanding: CALLER_ERR is 1, or was 1 in this run before OPEN_SESSION or reset cleared the register (log 20). Raised by `endOfRun`, the verdict on a finished run (70_reset_and_hazards.md R157, R165(b)), never by a step. Safe: the run itself goes on, as R87 says (log 9). -/
  | callerError
  deriving DecidableEq, Repr

/-- What the model gives no meaning (70_reset_and_hazards.md R165(c)). -/
inductive Refusal where
  /-- An instruction without a meaning yet: raised by `exec`'s arm alone. Safe. No arm raises it. -/
  | notModelled (mnemonic : String)
  /-- An RX_PUSH past RX_BUF_MAX: raised by RX_PUSH (20_memory.md R56). Safe: the spec gives it no meaning. -/
  | rxOverflow
  /-- A frame longer than TX_FRAME_MAX: raised by the ops that emit a frame (40_frame_codec.md R88, R165). Safe: the spec gives it no meaning. -/
  | txFrameTooLong
  /-- A configuration that breaks R155: raised by every step. Safe: the spec refuses the whole run. -/
  | badConfig
  /-- A host read of a result register that RES_KIND and RES_VALID do not name: raised by `hostRead` (R34). Safe. -/
  | resultNotNamed
  /-- A host read of a register the status read does not show: raised by `hostRead` (R46). Safe. -/
  | notHostReadable
  deriving DecidableEq, Repr

/-- The state right after reset under a configuration: the table of R44, nothing emitted yet, nothing on the port. -/
def State.resetWith (c : Params) : State where
  seq         := 0
  await       := false
  pendKind    := .iBlock
  pendCmd     := 0x00
  pendSeq     := false
  pendRid     := 0x00
  needResync  := false
  callerErr   := false
  rxbuf       := []
  curPos      := 0
  status      := ⟨.none, 0, 0⟩
  seqMismatch := false
  ridMismatch := false
  resKind     := .none
  resValid    := false
  txLast      := []
  envPcb      := 0x00
  envRid      := 0x00
  envInfo     := []
  rscbBlocks  := 0
  rscbData    := []
  invStop     := 0
  invTotal    := 0
  invCount    := 0
  invTags     := []
  curData     := .bytes []
  tx          := []
  callerErrPast := false
  pc          := 0
  port        := []
  cfg         := c

/-- The machine right after reset (R44, R153), in the reference configuration (DESIGN CHOICE, log 1). -/
def State.reset : State := State.resetWith Params.reference

end Sys2Proof.Machine
end

