-- ==== Sys2Proof/Machine/Flags.lean ====
section
/-! DEFINITION. The numbers behind STATUS and RES_KIND (60_exceptions.md R137, R138; 10_state.md R24, R34) and the computed flags: the PCB classifier and the response cross-checks (30_encoding.md R69, 43_response_decoders.md R115, R116). -/

namespace Sys2Proof.Machine

open Sys2Proof.Config

/-- The code of an error kind in `STATUS.ERR` (R137). -/
def ErrKind.code : ErrKind → BitVec 3
  | .none => 0
  | .truncated => 1
  | .lengthMismatch => 2
  | .invalidState => 3
  | .unknownProtocol => 4
  | .unsupported => 5
  | .timeout => 6

/-- The kind of each row of the table of R138. -/
def Reason.kind : Reason → ErrKind
  | .envelope => .truncated
  | .noCommandCode => .truncated
  | .field => .truncated
  | .cfgBytes => .lengthMismatch
  | .trailing => .lengthMismatch
  | .badSeq => .invalidState
  | .resyncRequired => .invalidState
  | .unexpectedResponse => .invalidState
  | .wrongBlockType => .invalidState
  | .commandMismatch => .invalidState
  | .seqMismatch => .invalidState
  | .unknownProtocol _ => .unknownProtocol
  | .opcode => .unsupported
  | .hostFmt => .unsupported
  | .reservedBit => .unsupported
  | .noCommand => .unsupported
  | .commandCode => .unsupported
  | .airParams => .unsupported
  | .stopType => .unsupported
  | .embeddedCommand => .unsupported
  | .chaining => .unsupported
  | .noResponseCodec => .unsupported
  | .timeout => .timeout

/-- `STATUS.ERR_SUB` of each row of the table of R138; for UnknownProtocol the unrecognized byte itself. -/
def Reason.sub : Reason → Byte
  | .envelope => 0x01
  | .noCommandCode => 0x02
  | .field => 0x03
  | .cfgBytes => 0x01
  | .trailing => 0x02
  | .badSeq => 0x01
  | .resyncRequired => 0x02
  | .unexpectedResponse => 0x03
  | .wrongBlockType => 0x04
  | .commandMismatch => 0x05
  | .seqMismatch => 0x06
  | .unknownProtocol b => b
  | .opcode => 0x01
  | .hostFmt => 0x02
  | .reservedBit => 0x03
  | .noCommand => 0x04
  | .commandCode => 0x05
  | .airParams => 0x06
  | .stopType => 0x07
  | .embeddedCommand => 0x08
  | .chaining => 0x09
  | .noResponseCodec => 0x0A
  | .timeout => 0x00

/-- The code of `RES_KIND` (R34). -/
def ResKind.code : ResKind → BitVec 3
  | .none => 0
  | .tx => 1
  | .env => 2
  | .rscb => 3
  | .inv => 4
  | .cur => 5
  | .resyncAck => 6

/-- The code of `PEND_KIND` (R24). -/
def PendKind.code : PendKind → BitVec 1
  | .iBlock => 0
  | .sBlock => 1

/-- The first classifier row that fits a PCB decides its class; OTHER when none fits (log 2). -/
def classify : List PcbRule → Byte → PcbKind
  | [], _ => .other
  | r :: rs, p => if p &&& r.mask = r.value then r.kind else classify rs p

/-- `pcb_kind(p)` (R69). -/
def pcbKind (c : Params) (p : Byte) : PcbKind := classify c.pcbRules p

/-- The reader's sequence bit differs from the expected `PEND_SEQ xor RESP_SEQ_TOGGLE` (R115). -/
def seqBitDiffers (c : Params) (pendSeq : Bool) (pcb : Byte) : Bool :=
  bit pcb 6 != (pendSeq ^^ c.respSeqToggle)

/-- SEQ holds one of its legal values 0 and 1 (R20, R21). -/
def seqLegal (v : Byte) : Bool := v == 0 || v == 1

end Sys2Proof.Machine
end

