-- ==== Sys2Proof/Machine/Ops.lean ====
section
/-! DEFINITION. The operations every op is made of (00_scope.md R13): how an op ends (`raise`, `okWith`: 60_exceptions.md R140, R141), clearing the receive buffer (10_state.md R30, R31), reading it (20_memory.md R48), emitting a frame (R49), reset (70_reset_and_hazards.md R153) and the configuration check (R155). -/

namespace Sys2Proof.Machine

open Sys2Proof.Config

/-- The three outcomes of an op of this model. -/
abbrev Result := Host.Outcome State Fault Refusal

/-- `raise E(sub, pos)`, the block's one "trap entry": STATUS and RES_VALID are written, nothing else (R140). There is no return op (R144). -/
def raise (r : Reason) (pos : Nat) (s : State) : State :=
  { s with status := ⟨r.kind, r.sub, pos⟩, resValid := false }

/-- `ok(kind)`: STATUS cleared, RES_KIND and RES_VALID written (R141). -/
def okWith (k : ResKind) (s : State) : State :=
  { s with status := ⟨.none, 0, 0⟩, resKind := k, resValid := true }

/-- `RXBUF <- []; CUR_POS <- 0`: every write that clears RXBUF also writes CUR_POS (R30, R31). -/
def clearRx (s : State) : State := { s with rxbuf := [], curPos := 0 }

/-- `RxRead(i, n)`: the bytes `RXBUF[i..i+n)`, defined when `i + n` ≤ `len(RXBUF)`; no side effect (R48). -/
def rxRead (i n : Nat) (s : State) : Option Bytes :=
  if i + n ≤ s.rxbuf.length then some (slice s.rxbuf i n) else none

/-- `emit_tx(s)`: the frame joins the TX stream and is copied to TXLAST (R49). -/
def emitTx (frame : Bytes) (s : State) : State :=
  { s with tx := s.tx ++ [frame], txLast := frame }

/-- Whether a length keeps within a capacity; `none` is unbounded (R8). -/
def within (cap : Option Nat) (n : Nat) : Bool :=
  match cap with
  | none => true
  | some m => n ≤ m

/-- `emit_tx(frame); ok(TX)`, the end of every op that emits; a frame longer than TX_FRAME_MAX is refused (R88, R165(c); log 7). -/
def send (frame : Bytes) (s : State) : Result :=
  if within s.cfg.txFrameMax frame.length then .next (okWith .tx (emitTx frame s))
  else .refused .txFrameTooLong

/-- The reset input: every register takes the value of R44; the TX history, the op index, the port and the configuration are no registers (R42, R43, R153; log 6). A CALLER_ERR it clears stays a fault of the run (R165(b); log 20). -/
def resetInput (s : State) : State :=
  { State.resetWith s.cfg with
    tx            := s.tx
    callerErrPast := s.callerErrPast || s.callerErr
    pc            := s.pc
    port          := s.port }

/-- The configuration constraints (a) to (f) of R155; (g) holds by the types of the fields. R155 constrains bit 5 of PCB_I_BASE and not of PCB_S_RESYNC, and neither does the model (DESIGN CHOICE, log 21). -/
def configOk (c : Params) : Bool :=
  !bit c.pcbIBase 6 && !bit c.pcbIBase 5
    && pcbKind c c.pcbIBase == .iBlock && pcbKind c (c.pcbIBase ||| 0x40) == .iBlock
    && pcbKind c c.pcbSResync == .sBlock
    && decide [c.stopTime, c.stopAttempts, c.stopTags, c.stopUncond].Nodup
    && c.validCmds.contains cmdRscb && c.validCmds.contains cmdInv
    && (match c.rxBufMax with
        | none => true
        | some m => decide (2 ≤ m))

end Sys2Proof.Machine
end

