-- ==== Sys2Proof/Machine/Operands.lean ====
section
/-! DEFINITION. Operand fields and the information fields of the two requests (30_encoding.md R71, R73, R74, R81; 42_command_codecs.md R102 to R110), and the PCB of an I-Block request (30_encoding.md R67). -/

namespace Sys2Proof.Machine

open Sys2Proof.Config

/-- `rom` = `b1[7]` (R81). -/
def rscbRom (b1 : Byte) : Bool := bit b1 7

/-- `b1[6]`, reserved, must be 0 (R81, R84). -/
def rscbReserved (b1 : Byte) : Bool := bit b1 6

/-- `addr` = `b1[5:0]` (R81). -/
def rscbAddr (b1 : Byte) : BitVec 6 := b1.setWidth 6

/-- `B1 = (R << 7) | A` (R71). -/
def rscbB1 (rom : Bool) (addr : BitVec 6) : Byte :=
  ((BitVec.ofBool rom).setWidth 8 <<< 7) ||| addr.setWidth 8

/-- `opt[7:4]` ≠ 0, reserved bits set (R73, R84). -/
def optReserved (opt : Byte) : Bool := opt &&& 0xF0 != 0

/-- `opt[0]`: query-multiple-antenna, the antenna-selection sub-field is present (R108). -/
def optAntenna (opt : Byte) : Bool := bit opt 0

/-- `opt[1]`: air-protocol-parameters-present (R107, R108). -/
def optAirParams (opt : Byte) : Bool := bit opt 1

/-- `opt[2]`: stop-trigger-present (R108). -/
def optStop (opt : Byte) : Bool := bit opt 2

/-- The four stop-trigger type codes (R109). -/
def stopTypes (c : Params) : List Byte := [c.stopTime, c.stopAttempts, c.stopTags, c.stopUncond]

/-- `T4`: the stop-trigger timeout in the byte order of STOP_TIMEOUT_ORDER (20_memory.md R51). -/
def stopTimeoutBytes (o : ByteOrder) (t : Word) : Bytes :=
  match o with
  | .le => le32 t
  | .be => be32 t

/-- The seven bytes `[TYPE] ++ T4 ++ le16(V)` of the stop-trigger sub-field (R74). -/
def stopField (c : Params) (t : StopTrigger) : Bytes :=
  t.type :: (stopTimeoutBytes c.stopTimeoutOrder t.timeout ++ le16 t.value)

/-- The RSCB request information field (R71, R102). -/
def rscbInfo (b1 count : Byte) : Bytes := [cmdRscb, b1, count]

/-- The INV request information field: `opt` decides which sub-fields are placed (R73, R106). An operand `opt` calls for and the term lacks, which no op word carries, places nothing (log 17). -/
def invInfo (c : Params) (opt : Byte) (ant : Option Bytes) (stop : Option StopTrigger) : Bytes :=
  [cmdInv, opt] ++ (if optAntenna opt then ant.getD [] else [])
    ++ (if optStop opt then (stop.map (stopField c)).getD [] else [])

/-- The PCB of an I-Block request with sequence bit `b` (R67). -/
def requestPcb (c : Params) (b : Bool) : Byte := c.pcbIBase ||| ((BitVec.ofBool b).setWidth 8 <<< 6)

end Sys2Proof.Machine
end

