-- ==== Sys2Proof/Machine/Frame.lean ====
section
/-! DEFINITION. The frame codec (40_frame_codec.md): serializer, I-Block build core with BUILD_REQ, envelope decoder with DECODE_ENV. -/

namespace Sys2Proof.Machine

open Sys2Proof.Config

/-- `command_code`: the first byte of the information field, when there is one (10_state.md R41). -/
def Frame.commandCode (f : Frame) : Option Byte := f.info.head?

/-- `parameter_field`: the information field after the command code (10_state.md R41). -/
def Frame.parameterField (f : Frame) : Bytes := f.info.drop 1

/-- `serialize(f)` (R86). -/
def serialize (f : Frame) : Bytes := [f.pcb, f.rid] ++ f.info

/-- `SEQ[0]`, the sequence bit a build stamps (R87). -/
def seqBit (s : State) : Bool := bit s.seq 0

/-- The frame of an I-Block request built now (R87). -/
def requestFrame (rid : Byte) (info : Bytes) (s : State) : Bytes :=
  serialize ⟨requestPcb s.cfg (seqBit s), rid, info⟩

/-- The first error an I-Block build meets, in the order of R87; `none` when it may proceed. -/
def buildError (info : Bytes) (s : State) : Option Reason :=
  match info with
  | [] => some .noCommand
  | cmd :: _ =>
    if !s.cfg.validCmds.contains cmd then some .commandCode
    else if s.needResync then some .resyncRequired
    else if !seqLegal s.seq then some .badSeq
    else none

/-- The register writes of a successful build before the frame is emitted: the caller error, the sequence flip, the new exchange, the cleared receive buffer (R87). -/
def openExchange (rid : Byte) (info : Bytes) (s : State) : State :=
  clearRx { s with
    callerErr := s.callerErr || s.await
    seq       := (BitVec.ofBool (!seqBit s)).setWidth 8
    await     := true
    pendKind  := .iBlock
    pendCmd   := info.headD 0
    pendSeq   := seqBit s
    pendRid   := rid }

/-- `build_core(rid, info)`: the shared body of BUILD_REQ, ENC_RSCB and ENC_INV (R87). -/
def buildCore (rid : Byte) (info : Bytes) (s : State) : Result :=
  match buildError info s with
  | some r => .next (raise r 0 s)
  | none => send (requestFrame rid info s) (openExchange rid info s)

/-- BUILD_REQ (R88). -/
def execBuildReq (rid : Byte) (info : Bytes) (s : State) : Result := buildCore rid info s

/-- `decode_envelope(b)` (R89). -/
def decodeEnvelope : Bytes → Except Fail Frame
  | pcb :: rid :: info => .ok ⟨pcb, rid, info⟩
  | b => .error ⟨.envelope, b.length⟩

/-- DECODE_ENV (R90). -/
def execDecodeEnv (s : State) : Result :=
  match decodeEnvelope s.rxbuf with
  | .error f => .next (raise f.reason f.pos s)
  | .ok f => .next (okWith .env { s with envPcb := f.pcb, envRid := f.rid, envInfo := f.info })

end Sys2Proof.Machine
end

