-- ==== Sys2Proof/Machine/Cursor.lean ====
section
/-! DEFINITION. The buffer cursor's primitives, the block's only load path (44_cursor.md R126 to R130). -/

namespace Sys2Proof.Machine

/-- A read at a cursor: a value and the cursor after it, or the error it raises. -/
abbrev Reader (α : Type) := Cursor → Except Fail (α × Cursor)

/-- `cursor(buf, base)` (R126). -/
def cursor (buf : Bytes) (base : Nat) : Cursor := ⟨buf, base, 0⟩

/-- `read_n(c, n)`: the bound is checked on unbounded naturals; a failed read consumes nothing (R127). -/
def readN (n : Nat) : Reader Bytes := fun c =>
  if c.pos + n > c.buf.length then .error ⟨.field, c.base + c.pos⟩
  else .ok (slice c.buf c.pos n, { c with pos := c.pos + n })

/-- A byte of what a read returned, by its index. -/
def byteAt (b : Bytes) (i : Nat) : Byte := b.getD i 0

/-- `read_u8(c)` (R128). -/
def readU8 : Reader Byte := fun c =>
  (readN 1 c).map fun r => (byteAt r.1 0, r.2)

/-- `read_u16(c)`, low byte first (R129). -/
def readU16 : Reader Half := fun c =>
  (readN 2 c).map fun r => (u16le (byteAt r.1 0) (byteAt r.1 1), r.2)

/-- `read_u32(c)`, low byte first (R130). -/
def readU32 : Reader Word := fun c =>
  (readN 4 c).map fun r => (u32le (byteAt r.1 0) (byteAt r.1 1) (byteAt r.1 2) (byteAt r.1 3), r.2)

/-- A field present exactly when its flag bit is 1; absent, it is `none` and nothing is read (43_response_decoders.md R119, R122). -/
def readIf {α : Type} (present : Bool) (rd : Reader α) : Reader (Option α) := fun c =>
  if present then (rd c).map fun r => (some r.1, r.2) else .ok (none, c)

/-- The host-visible cursor over RXBUF at CUR_POS (R132). -/
def hostCursor (s : State) : Cursor := ⟨s.rxbuf, 0, s.curPos⟩

end Sys2Proof.Machine
end

