-- ==== Sys2Proof/Machine/HostCursor.lean ====
section
/-! DEFINITION. The host cursor ops (44_cursor.md R131 to R135). -/

namespace Sys2Proof.Machine

/-- CUR_SET (R131). -/
def execCurSet (p : Word) (s : State) : Result :=
  if p.toNat > s.rxbuf.length then .next (raise .field s.curPos s)
  else .next (okWith .none { s with curPos := p.toNat })

/-- The shared body of the CUR_RD ops: read at CUR_POS, then CUR_POS and CUR_DATA (R132). -/
def curRead {α : Type} (rd : Reader α) (data : α → CurData) (s : State) : Result :=
  match rd (hostCursor s) with
  | .error f => .next (raise f.reason f.pos s)
  | .ok (v, c) => .next (okWith .cur { s with curPos := c.pos, curData := data v })

/-- CUR_RD (R132). -/
def execCurRd (n : Half) (s : State) : Result := curRead (readN n.toNat) .bytes s

/-- CUR_RD8 (R133). -/
def execCurRd8 (s : State) : Result := curRead readU8 .u8 s

/-- CUR_RD16 (R134). -/
def execCurRd16 (s : State) : Result := curRead readU16 .u16 s

/-- CUR_RD32 (R135). -/
def execCurRd32 (s : State) : Result := curRead readU32 .u32 s

end Sys2Proof.Machine
end

