-- ==== Sys2Proof/Machine/Requests.lean ====
section
/-! DEFINITION. The request codecs (42_command_codecs.md): ENC_RSCB and ENC_INV. -/

namespace Sys2Proof.Machine

/-- ENC_RSCB (R102): the reserved bit is checked first (30_encoding.md R84). -/
def execEncRscb (rid b1 count : Byte) (s : State) : Result :=
  if rscbReserved b1 then .next (raise .reservedBit 0 s)
  else buildCore rid (rscbInfo b1 count) s

/-- A stop trigger is called for and its type is none of the four codes (R106, R109). -/
def badStopType (opt : Byte) (stop : Option StopTrigger) (s : State) : Bool :=
  optStop opt && (match stop with
    | some t => !(stopTypes s.cfg).contains t.type
    | none => false)

/-- ENC_INV (R106): reserved bits, air-protocol parameters (R107), stop type (R109), then the build. -/
def execEncInv (rid opt : Byte) (ant : Option Bytes) (stop : Option StopTrigger) (s : State) :
    Result :=
  if optReserved opt then .next (raise .reservedBit 0 s)
  else if optAirParams opt then .next (raise .airParams 0 s)
  else if badStopType opt stop s then .next (raise .stopType 0 s)
  else buildCore rid (invInfo s.cfg opt ant stop) s

end Sys2Proof.Machine
end

