-- ==== Sys2Proof/Machine/Session.lean ====
section
/-! DEFINITION. The sequencer's ops (41_sequencer.md): OPEN_SESSION, RESYNC, FORCE_SEQ, TIMEOUT, ABANDON. -/

namespace Sys2Proof.Machine

/-- OPEN_SESSION: the effect of reset, then ok(NONE) (R93, R154). -/
def execOpenSession (s : State) : Result := .next (okWith .none (resetInput s))

/-- The exchange a RESYNC leaves: one of kind S when RESYNC_AWAITS_RESPONSE, else none (R94). -/
def resyncExchange (rid : Byte) (s : State) : State :=
  if s.cfg.resyncAwaits then { s with await := true, pendKind := .sBlock, pendRid := rid }
  else { s with await := false }

/-- The resync S-Block frame (30_encoding.md R68). DESIGN CHOICE, log 21: bit 5 of its PCB is as configured, where R66's prose has it 0 in every emitted frame and R66's table gives all eight bits of PCB_S_RESYNC. -/
def resyncFrame (rid : Byte) (s : State) : Bytes := [s.cfg.pcbSResync, rid]

/-- RESYNC (R94). -/
def execResync (rid : Byte) (s : State) : Result :=
  send (resyncFrame rid s)
    (clearRx (resyncExchange rid { s with seq := 0, needResync := false }))

/-- FORCE_SEQ, the test port (R95). -/
def execForceSeq (v : Byte) (s : State) : Result := .next (okWith .none { s with seq := v })

/-- The exchange ends with the device's sequence expectation uncertain: AWAIT 0, NEED_RESYNC 1, RXBUF cleared (R96; 43_response_decoders.md R114). -/
def dropExchange (s : State) : State := clearRx { s with await := false, needResync := true }

/-- TIMEOUT: no effect when nothing is outstanding; else the writes stand and Timeout is raised (R96). -/
def execTimeout (s : State) : Result :=
  if s.await then .next (raise .timeout 0 (dropExchange s)) else .next (okWith .none s)

/-- ABANDON (R97). -/
def execAbandon (s : State) : Result :=
  .next (okWith .none
    (clearRx { s with needResync := s.needResync || s.await, await := false }))

end Sys2Proof.Machine
end

