-- ==== Sys2Proof/Machine/Responses.lean ====
section
/-! DEFINITION. The receive path and the response decoders (43_response_decoders.md; 42_command_codecs.md R104): RX_PUSH, DECODE_RESP, the configuration, inventory and tag-record decoders. -/

namespace Sys2Proof.Machine

open Sys2Proof.Config

/-- RX_PUSH (R111); past RX_BUF_MAX the model refuses (20_memory.md R56). -/
def execRxPush (bytes : Bytes) (s : State) : Result :=
  if within s.cfg.rxBufMax (s.rxbuf.length + bytes.length) then
    .next (okWith .none { s with rxbuf := s.rxbuf ++ bytes })
  else .refused .rxOverflow

/-- What a decoded response holds: the results of RSCB, INV and RESYNC_ACK (R34, R37, R38). -/
inductive Response where
  | rscb (blocks : Byte) (data : Bytes)
  | inv (stop : Byte) (total : Half) (count : Byte) (tags : List TagRecord)
  | resyncAck
  deriving DecidableEq, Repr

/-- The result kind of a response (R113). -/
def Response.kind : Response → ResKind
  | .rscb _ _ => .rscb
  | .inv _ _ _ _ => .inv
  | .resyncAck => .resyncAck

/-- `dec_rscb(p, base)` (42_command_codecs.md R104). -/
def decRscb (p : Bytes) (base : Nat) : Except Fail Response := do
  let (n, c) ← readU8 (cursor p base)
  if p.length - 1 ≠ cfgBlockSize * n.toNat then .error ⟨.cfgBytes, base + 1⟩
  else do
    let (d, _) ← readN (p.length - 1) c
    .ok (.rscb n d)

/-- The air-protocol type id of a record, which must be a recognized code (R119, R120). -/
def readProto (known : List Byte) : Reader Byte := fun c => do
  let (v, c') ← readU8 c
  if known.contains v then .ok (v, c') else .error ⟨.unknownProtocol v, c.base + c.pos⟩

/-- The serial number of a record: a length byte, then that many bytes (R119). -/
def readSerial : Reader Bytes := fun c => do
  let (l, c) ← readU8 c
  readN l.toNat c

/-- The tag memory of a record: a bit count low byte first, then `ceil8(bits)` bytes (R119). -/
def readMem : Reader TagMemory := fun c => do
  let (bits, c) ← readU16 c
  let (data, c) ← readN (ceil8 bits.toNat) c
  .ok (⟨bits, data⟩, c)

/-- `dec_tag(c)` (R119): the fields in wire order, then the embedded-command check (R121); flag bits 5 and 6 are ignored. -/
def decTag (known : List Byte) : Reader TagRecord := fun c => do
  let (fl, c) ← readU8 c
  let (ant, c) ← readIf (bit fl 0) readU8 c
  let (proto, c) ← readIf (bit fl 1) (readProto known) c
  let (ttype, c) ← readIf (bit fl 2) readU8 c
  let (serial, c) ← readIf (bit fl 3) readSerial c
  let (mem, c) ← readIf (bit fl 4) readMem c
  if bit fl 7 then .error ⟨.embeddedCommand, c.base + c.pos⟩
  else .ok (⟨ant, proto, ttype, serial, mem⟩, c)

/-- The record loop of `dec_inv`: exactly `n` records (R118, R125). -/
def decTags (known : List Byte) : Nat → Reader (List TagRecord)
  | 0, c => .ok ([], c)
  | n + 1, c => do
    let (t, c) ← decTag known c
    let (ts, c) ← decTags known n c
    .ok (t :: ts, c)

/-- `dec_inv(p, base)` (R118). -/
def decInv (known : List Byte) (p : Bytes) (base : Nat) : Except Fail Response := do
  let (stop, c) ← readU8 (cursor p base)
  let (total, c) ← readU16 c
  let (count, c) ← readU8 c
  let (tags, c) ← decTags known count.toNat c
  if c.pos ≠ p.length then .error ⟨.trailing, base + c.pos⟩
  else .ok (.inv stop total count tags)

/-- The decoder keyed by PEND_CMD (R113, R117). -/
def decodeParams (c : Params) (cmd : Byte) (p : Bytes) : Except Fail Response :=
  if cmd = cmdRscb then decRscb p 3
  else if cmd = cmdInv then decInv c.knownAirProtocols p 3
  else .error ⟨.noResponseCodec, 2⟩

/-- The body of DECODE_RESP for an outstanding I-Block request, its checks in the order of R113. -/
def decodeIBlock (s : State) (f : Frame) : Except Fail (Response × Bool) :=
  if pcbKind s.cfg f.pcb ≠ .iBlock then .error ⟨.wrongBlockType, 0⟩
  else if bit f.pcb 5 then .error ⟨.chaining, 0⟩
  else if seqBitDiffers s.cfg s.pendSeq f.pcb ∧ s.cfg.seqCheck = .error then
    .error ⟨.seqMismatch, 0⟩
  else
    match f.info with
    | [] => .error ⟨.noCommandCode, 2⟩
    | cmd :: p =>
      if cmd ≠ s.pendCmd then .error ⟨.commandMismatch, 2⟩
      else (decodeParams s.cfg s.pendCmd p).map
        fun r => (r, seqBitDiffers s.cfg s.pendSeq f.pcb)

/-- The body of DECODE_RESP for an outstanding resync: any S-class PCB, nothing more decoded (R113). -/
def decodeSBlock (s : State) (f : Frame) : Except Fail (Response × Bool) :=
  if pcbKind s.cfg f.pcb ≠ .sBlock then .error ⟨.wrongBlockType, 0⟩
  else .ok (.resyncAck, false)

/-- What DECODE_RESP reads from RXBUF: the response, whether its sequence bit mismatched, and its resource id; or the error, before any state is written (R113). -/
def decodeResponse (s : State) : Except Fail (Response × Bool × Byte) :=
  if !s.await then .error ⟨.unexpectedResponse, 0⟩
  else do
    let f ← decodeEnvelope s.rxbuf
    let (r, mm) ← (match s.pendKind with
      | .sBlock => decodeSBlock s f
      | .iBlock => decodeIBlock s f)
    .ok (r, mm, f.rid)

/-- "write the result registers of res" (R113). -/
def writeResponse (r : Response) (s : State) : State :=
  match r with
  | .rscb n d => { s with rscbBlocks := n, rscbData := d }
  | .inv stop total count tags =>
    { s with invStop := stop, invTotal := total, invCount := count, invTags := tags }
  | .resyncAck => s

/-- The writes of a successful DECODE_RESP after the result registers: the two warning flags and the end of the exchange (R113, R115, R116). -/
def closeExchange (mm : Bool) (rid : Byte) (s : State) : State :=
  clearRx { s with
    seqMismatch := mm && s.cfg.seqCheck == .flag
    ridMismatch := rid != s.pendRid
    await       := false }

/-- DECODE_RESP (R113); every error goes through the epilogue of R114. -/
def execDecodeResp (s : State) : Result :=
  match decodeResponse s with
  | .error f => .next (raise f.reason f.pos (dropExchange s))
  | .ok (r, mm, rid) => .next (okWith r.kind (closeExchange mm rid (writeResponse r s)))

end Sys2Proof.Machine
end

