-- ==== Sys2Proof/Machine/Dispatch.lean ====
section
/-! DEFINITION. The meaning of every op: one arm per constructor of Instr, in the opcode table's order. -/

namespace Sys2Proof.Machine

def exec (i : Instr) (s : State) : Host.Outcome State Fault Refusal :=
  match i with
  | .openSession => Sys2Proof.Machine.execOpenSession s
  | .resync rid => Sys2Proof.Machine.execResync rid s
  | .buildReq rid info => Sys2Proof.Machine.execBuildReq rid info s
  | .encRscb rid b1 count => Sys2Proof.Machine.execEncRscb rid b1 count s
  | .encInv rid opt ant stop => Sys2Proof.Machine.execEncInv rid opt ant stop s
  | .rxPush bytes => Sys2Proof.Machine.execRxPush bytes s
  | .decodeEnv => Sys2Proof.Machine.execDecodeEnv s
  | .decodeResp => Sys2Proof.Machine.execDecodeResp s
  | .timeout => Sys2Proof.Machine.execTimeout s
  | .abandon => Sys2Proof.Machine.execAbandon s
  | .forceSeq v => Sys2Proof.Machine.execForceSeq v s
  | .curSet p => Sys2Proof.Machine.execCurSet p s
  | .curRd n => Sys2Proof.Machine.execCurRd n s
  | .curRd8 => Sys2Proof.Machine.execCurRd8 s
  | .curRd16 => Sys2Proof.Machine.execCurRd16 s
  | .curRd32 => Sys2Proof.Machine.execCurRd32 s

end Sys2Proof.Machine
end

