-- ==== Sys2Proof/WellFormed.lean ====
section
/-! DEFINITION. The op terms that an op word can carry (30_encoding.md R79): lengths that their length fields hold, and the optional operands of ENC_INV present exactly when `opt` says so. -/

namespace Sys2Proof

open Sys2Proof.Machine

/-- An instruction some op word of R79 carries. Reserved operand bits are NOT checked here: R84 makes them an error of the op, not of the word. -/
def Instr.wellFormed : Instr → Bool
  | .openSession => true
  | .resync _ => true
  | .buildReq _ info => info.length ≤ 65535
  | .encRscb _ _ _ => true
  | .encInv _ opt ant stop =>
    ant.isSome == bit opt 0 && (ant.getD []).length ≤ 255 && stop.isSome == bit opt 2
  | .rxPush bytes => bytes.length ≤ 65535
  | .decodeEnv => true
  | .decodeResp => true
  | .timeout => true
  | .abandon => true
  | .forceSeq _ => true
  | .curSet _ => true
  | .curRd _ => true
  | .curRd8 => true
  | .curRd16 => true
  | .curRd32 => true

/-- `Instr.wellFormed` as a proposition. -/
abbrev WellFormed (i : Instr) : Prop := i.wellFormed = true

end Sys2Proof
end

