-- ==== Sys2Proof/Decode.lean ====
section
/-! DEFINITION. Host op words to ops and back (30_encoding.md Part B, R78 to R83): the decoder, total on any bytes and rejecting by name, then the length rule of R80, the encoder, and the host's table word. -/

namespace Sys2Proof

open Sys2Proof.Machine

/-- Why a word is no op: R82 (empty word, illegal opcode) and R83 (wrong length). -/
inductive DecodeError where
  | emptyWord
  | illegalOpcode
  | wrongLength
  deriving DecidableEq, Repr

/-- Format H0: the opcode alone (R79). -/
def decodeH0 (i : Instr) : Bytes → Except DecodeError Instr
  | [] => .ok i
  | _ => .error .wrongLength

/-- Format H1: one u8 (R79). -/
def decodeH1 (f : Byte → Instr) : Bytes → Except DecodeError Instr
  | [a] => .ok (f a)
  | _ => .error .wrongLength

/-- Format H2: `rid`, `L` low first, then L bytes (R79, R81). -/
def decodeH2 (f : Byte → Bytes → Instr) : Bytes → Except DecodeError Instr
  | rid :: l0 :: l1 :: info =>
    if info.length = (u16le l0 l1).toNat then .ok (f rid info) else .error .wrongLength
  | _ => .error .wrongLength

/-- Format H3: three u8 (R79). -/
def decodeH3 (f : Byte → Byte → Byte → Instr) : Bytes → Except DecodeError Instr
  | [a, b, c] => .ok (f a b c)
  | _ => .error .wrongLength

/-- The stop-trigger operands of H4, present exactly when `opt[2]` = 1, and then the end of the word (R79, R81). -/
def decodeStop (opt : Byte) (f : Option StopTrigger → Instr) (rest : Bytes) :
    Except DecodeError Instr :=
  if bit opt 2 then
    match rest with
    | [ty, t0, t1, t2, t3, v0, v1] => .ok (f (some ⟨ty, u32le t0 t1 t2 t3, u16le v0 v1⟩))
    | _ => .error .wrongLength
  else
    match rest with
    | [] => .ok (f none)
    | _ => .error .wrongLength

/-- Format H4: `rid`, `opt`, then `alen` and the antenna bytes when `opt[0]` = 1, then the stop trigger when `opt[2]` = 1 (R79, R80). -/
def decodeH4 (f : Byte → Byte → Option Bytes → Option StopTrigger → Instr) :
    Bytes → Except DecodeError Instr
  | rid :: opt :: rest =>
    if bit opt 0 then
      match rest with
      | alen :: body =>
        if alen.toNat ≤ body.length then
          decodeStop opt (f rid opt (some (body.take alen.toNat))) (body.drop alen.toNat)
        else .error .wrongLength
      | [] => .error .wrongLength
    else decodeStop opt (f rid opt none) rest
  | _ => .error .wrongLength

/-- Format H5: `L` low first, then L bytes (R79, R81). -/
def decodeH5 (f : Bytes → Instr) : Bytes → Except DecodeError Instr
  | l0 :: l1 :: bytes =>
    if bytes.length = (u16le l0 l1).toNat then .ok (f bytes) else .error .wrongLength
  | _ => .error .wrongLength

/-- Format H6: one u32 low first (R79, R81). -/
def decodeH6 (f : Word → Instr) : Bytes → Except DecodeError Instr
  | [p0, p1, p2, p3] => .ok (f (u32le p0 p1 p2 p3))
  | _ => .error .wrongLength

/-- Format H7: one u16 low first (R79, R81). -/
def decodeH7 (f : Half → Instr) : Bytes → Except DecodeError Instr
  | [n0, n1] => .ok (f (u16le n0 n1))
  | _ => .error .wrongLength

/-- The op of an opcode's operand bytes (the opcode map of R79); opcodes 0x00 and 0x11 to 0xFF are illegal (R82). -/
def decodeOp (op : Byte) (body : Bytes) : Except DecodeError Instr :=
  match op.toNat with
  | 0x01 => decodeH0 .openSession body
  | 0x02 => decodeH1 .resync body
  | 0x03 => decodeH2 .buildReq body
  | 0x04 => decodeH3 .encRscb body
  | 0x05 => decodeH4 .encInv body
  | 0x06 => decodeH5 .rxPush body
  | 0x07 => decodeH0 .decodeEnv body
  | 0x08 => decodeH0 .decodeResp body
  | 0x09 => decodeH0 .timeout body
  | 0x0A => decodeH0 .abandon body
  | 0x0B => decodeH1 .forceSeq body
  | 0x0C => decodeH6 .curSet body
  | 0x0D => decodeH7 .curRd body
  | 0x0E => decodeH0 .curRd8 body
  | 0x0F => decodeH0 .curRd16 body
  | 0x10 => decodeH0 .curRd32 body
  | _ => .error .illegalOpcode

/-- The decoder: total on any byte sequence (R78 to R83). -/
def decode : Bytes → Except DecodeError Instr
  | [] => .error .emptyWord
  | op :: body => decodeOp op body

/-- The bytes of an ENC_INV word that its antenna and stop-trigger operands take (R79). -/
def lengthH4 (opt : Byte) (alen : Nat) : Nat :=
  3 + (if bit opt 0 then 1 + alen else 0) + (if bit opt 2 then 7 else 0)

/-- The length R79 gives a word, told from its leading bytes as R80 says; `none` when the opcode is illegal or the word is too short to hold the bytes that R80 reads. -/
def wordLength : Bytes → Option Nat
  | [] => none
  | op :: body =>
    match op.toNat with
    | 0x01 => some 1
    | 0x02 => some 2
    | 0x03 =>
      match body with
      | _ :: l0 :: l1 :: _ => some (4 + (u16le l0 l1).toNat)
      | _ => none
    | 0x04 => some 4
    | 0x05 =>
      match body with
      | _ :: opt :: rest =>
        if bit opt 0 then
          match rest with
          | alen :: _ => some (lengthH4 opt alen.toNat)
          | [] => none
        else some (lengthH4 opt 0)
      | _ => none
    | 0x06 =>
      match body with
      | l0 :: l1 :: _ => some (3 + (u16le l0 l1).toNat)
      | _ => none
    | 0x07 => some 1
    | 0x08 => some 1
    | 0x09 => some 1
    | 0x0A => some 1
    | 0x0B => some 2
    | 0x0C => some 5
    | 0x0D => some 3
    | 0x0E => some 1
    | 0x0F => some 1
    | 0x10 => some 1
    | _ => none

/-- The stop-trigger operand bytes of an ENC_INV word (R79). -/
def encodeStop : Option StopTrigger → Bytes
  | none => []
  | some t => t.type :: (le32 t.timeout ++ le16 t.value)

/-- The antenna operand bytes of an ENC_INV word: `alen` and the bytes (R79). -/
def encodeAnt : Option Bytes → Bytes
  | none => []
  | some a => BitVec.ofNat 8 a.length :: a

/-- The encoder: the op word of an op (R79). -/
def encode : Instr → Bytes
  | .openSession => [0x01]
  | .resync rid => [0x02, rid]
  | .buildReq rid info => 0x03 :: rid :: (le16 (BitVec.ofNat 16 info.length) ++ info)
  | .encRscb rid b1 count => [0x04, rid, b1, count]
  | .encInv rid opt ant stop => 0x05 :: rid :: opt :: (encodeAnt ant ++ encodeStop stop)
  | .rxPush bytes => 0x06 :: (le16 (BitVec.ofNat 16 bytes.length) ++ bytes)
  | .decodeEnv => [0x07]
  | .decodeResp => [0x08]
  | .timeout => [0x09]
  | .abandon => [0x0A]
  | .forceSeq v => [0x0B, v]
  | .curSet p => 0x0C :: le32 p
  | .curRd n => 0x0D :: le16 n
  | .curRd8 => [0x0E]
  | .curRd16 => [0x0F]
  | .curRd32 => [0x10]

/-- The op word whose bits are `w`, numbered as spec/opcode_table.json numbers them (byte `k` of the word is bits `8k+7..8k`): its first `nbits` bits, then zero bytes up to the length that R80 gives it (log 16). -/
def tableWord (nbits w : Nat) : Bytes :=
  let given := bytesOfNat ((nbits + 7) / 8) w
  given ++ List.replicate ((wordLength (given ++ [0, 0, 0, 0])).getD 0 - given.length) 0

/-- The op the decoder reads from the table word. -/
def decodeTableWord (nbits w : Nat) : Option Instr :=
  match decode (tableWord nbits w) with
  | .ok i => some i
  | .error _ => none

end Sys2Proof
end

