-- ==== Sys2Proof/Machine/Port.lean ====
section
/-! DEFINITION. Taking the next input from the command port (00_scope.md R16, R18; 20_memory.md R60, R63): what it is, and the port and op index after it is taken. -/

namespace Sys2Proof.Machine

/-- What the block finds when it is ready for the next op. -/
inductive Fetched where
  | badConfig               -- the configuration breaks R155: the run is refused
  | idle                    -- nothing on the port: the block waits (R153)
  | reset                   -- the reset input (R153)
  | malformed (r : Reason)  -- a word that is no op (R82, R83)
  | op (i : Instr)          -- an op
  deriving DecidableEq, Repr

/-- The sub-reason a rejected word raises (30_encoding.md R82, R83). -/
def rejectReason : DecodeError → Reason
  | .emptyWord => .hostFmt
  | .illegalOpcode => .opcode
  | .wrongLength => .hostFmt

/-- The next input. The configuration check of R155 stands before every op; as no op writes the configuration, this is the check before the first op (log 8). -/
def fetch (s : State) : Fetched :=
  if !configOk s.cfg then .badConfig
  else
    match s.port with
    | [] => .idle
    | .reset :: _ => .reset
    | .op w :: _ =>
      match decode w with
      | .ok i => .op i
      | .error e => .malformed (rejectReason e)

/-- The state with the next input taken from the port. -/
def takeInput (s : State) : State := { s with port := s.port.drop 1 }

/-- The state with the next op word taken: the op index moves on with it (R19, log 5). -/
def takeOp (s : State) : State := { takeInput s with pc := s.pc + 1 }

/-- An op word put first on the port (log 3). -/
def putFirst (w : Bytes) (s : State) : State := { s with port := .op w :: s.port }

end Sys2Proof.Machine
end

