-- ==== Sys2Proof/Machine/Step.lean ====
section
/-! DEFINITION. One step: the block takes the next input from the command port and executes it to completion (00_scope.md R3, R16; 20_memory.md R60). -/

namespace Sys2Proof.Machine

/-- One step. With nothing on the port the block waits: the state is unchanged (log 4). A word that is no op raises its error and changes nothing else (30_encoding.md R82, R83). -/
def step (s : State) : Host.Outcome State Fault Refusal :=
  match fetch s with
  | .badConfig => .refused .badConfig
  | .idle => .next s
  | .reset => .next (resetInput (takeInput s))
  | .malformed r => .next (raise r 0 (takeOp s))
  | .op i => exec i (takeOp s)

/-- `s` with the table word of `w` next on the command port (log 3, log 16). -/
def State.withFetchWord (s : State) (nbits w : Nat) : State := putFirst (tableWord nbits w) s

end Sys2Proof.Machine
end

