-- ==== Sys2Proof/Machine/Asm.lean ====
section
/-! DEFINITION. The assembler syntax of 30_encoding.md R85: one op per line, the mnemonic, then `name=value` operands separated by commas. A host tool: no op of the block reads it. What R85 leaves open about spelling is log 15. -/

namespace Sys2Proof.Machine

/-- An operand value: a number or a byte sequence in brackets (R85). -/
inductive AsmValue where
  | num (n : Nat)
  | bytes (b : List Nat)
  deriving DecidableEq, Repr

/-- The operands of a line, in order. -/
abbrev AsmArgs := List (String × AsmValue)

/-- A parsed line. -/
structure AsmLine where
  mnemonic : String
  args     : AsmArgs
  deriving DecidableEq, Repr

/-- The value of a digit, hexadecimal digits in either case. -/
def digitValue (c : Char) : Option Nat :=
  if '0' ≤ c ∧ c ≤ '9' then some (c.toNat - '0'.toNat)
  else if 'a' ≤ c ∧ c ≤ 'f' then some (c.toNat - 'a'.toNat + 10)
  else if 'A' ≤ c ∧ c ≤ 'F' then some (c.toNat - 'A'.toNat + 10)
  else none

/-- The digits of a number in a base, most significant first, after the value read so far. -/
def digitsValue (base : Nat) : Nat → List Char → Option Nat
  | acc, [] => some acc
  | acc, c :: cs =>
    match digitValue c with
    | some d => if d < base then digitsValue base (base * acc + d) cs else none
    | none => none

/-- A number in decimal or `0x` hexadecimal (R85). -/
def asmNumber : List Char → Option Nat
  | '0' :: 'x' :: c :: cs => digitsValue 16 0 (c :: cs)
  | c :: cs => digitsValue 10 0 (c :: cs)
  | [] => none

/-- The parts between the commas that stand outside brackets. -/
def splitCommas : Bool → List Char → List (List Char)
  | _, [] => [[]]
  | inside, c :: cs =>
    if c = ',' ∧ inside = false then [] :: splitCommas inside cs
    else
      match splitCommas (if c = '[' then true else if c = ']' then false else inside) cs with
      | [] => [[c]]
      | p :: ps => (c :: p) :: ps

/-- A value: a bracketed byte sequence or a number (R85). -/
def asmValue : List Char → Option AsmValue
  | '[' :: cs =>
    if cs.getLast? = some ']' then
      if cs.length = 1 then some (.bytes [])
      else ((splitCommas false cs.dropLast).mapM asmNumber).map .bytes
    else none
  | cs => (asmNumber cs).map .num

/-- One operand, `name=value` (R85). -/
def asmArg (cs : List Char) : Option (String × AsmValue) :=
  match cs.span (· ≠ '=') with
  | (name, _ :: value) => (asmValue value).map fun v => (String.ofList name, v)
  | (_, []) => none

/-- A line: the mnemonic up to the first space, then the operands, spaces among them ignored. -/
def parseLine (line : String) : Option AsmLine :=
  match line.toList.span (· ≠ ' ') with
  | (mn, rest) =>
    let body := rest.filter (· ≠ ' ')
    if body = [] then some ⟨String.ofList mn, []⟩
    else ((splitCommas false body).mapM asmArg).map fun args => ⟨String.ofList mn, args⟩

/-- The next operand, a number of `w` bits under this name. -/
def takeNum (w : Nat) (name : String) : AsmArgs → Option (BitVec w × AsmArgs)
  | (n, .num v) :: rest => if n = name ∧ v < 2 ^ w then some (BitVec.ofNat w v, rest) else none
  | _ => none

/-- The next operand, a byte sequence under this name. -/
def takeBytes (name : String) : AsmArgs → Option (Bytes × AsmArgs)
  | (n, .bytes b) :: rest =>
    if n = name ∧ b.all (· < 256) then some (b.map (BitVec.ofNat 8), rest) else none
  | _ => none

/-- The op once no operand is left over; its lengths must fit their length fields, which the assembler computes (R85). -/
def asmFinish (i : Instr) : AsmArgs → Option Instr
  | [] => if i.wellFormed then some i else none
  | _ => none

/-- An op with one number operand: RESYNC, FORCE_SEQ, CUR_SET, CUR_RD (R85). -/
def asmNum1 (w : Nat) (name : String) (f : BitVec w → Instr) (args : AsmArgs) : Option Instr := do
  let (v, args) ← takeNum w name args
  asmFinish (f v) args

/-- `BUILD_REQ rid=R, info=[..]` (R85). -/
def asmBuildReq (args : AsmArgs) : Option Instr := do
  let (rid, args) ← takeNum 8 "rid" args
  let (info, args) ← takeBytes "info" args
  asmFinish (.buildReq rid info) args

/-- `ENC_RSCB rid=R, rom=0|1, addr=A, count=N`, assembled to `b1 = rom << 7 | addr` (R85). -/
def asmEncRscb (args : AsmArgs) : Option Instr := do
  let (rid, args) ← takeNum 8 "rid" args
  let (rom, args) ← takeNum 1 "rom" args
  let (addr, args) ← takeNum 6 "addr" args
  let (count, args) ← takeNum 8 "count" args
  asmFinish (.encRscb rid (rscbB1 (rom == 1) addr) count) args

/-- The antenna operand of ENC_INV, written when `opt[0]` = 1 (R79, R85). -/
def asmAnt (opt : Byte) (args : AsmArgs) : Option (Option Bytes × AsmArgs) :=
  if optAntenna opt then (takeBytes "ant" args).map fun r => (some r.1, r.2) else some (none, args)

/-- The stop-trigger operands of ENC_INV, written when `opt[2]` = 1 (R79, R85). -/
def asmStop (opt : Byte) (args : AsmArgs) : Option (Option StopTrigger × AsmArgs) :=
  if optStop opt then do
    let (ty, args) ← takeNum 8 "stop_type" args
    let (t, args) ← takeNum 32 "timeout" args
    let (v, args) ← takeNum 16 "value" args
    some (some ⟨ty, t, v⟩, args)
  else some (none, args)

/-- `ENC_INV rid=R, opt=O[, ant=[..]][, stop_type=S, timeout=T, value=V]` (R85). -/
def asmEncInv (args : AsmArgs) : Option Instr := do
  let (rid, args) ← takeNum 8 "rid" args
  let (opt, args) ← takeNum 8 "opt" args
  let (ant, args) ← asmAnt opt args
  let (stop, args) ← asmStop opt args
  asmFinish (.encInv rid opt ant stop) args

/-- `RX_PUSH bytes=[..]` (R85). -/
def asmRxPush (args : AsmArgs) : Option Instr := do
  let (bytes, args) ← takeBytes "bytes" args
  asmFinish (.rxPush bytes) args

/-- The op of a parsed line (R85); there are no pseudo-instructions. -/
def assembleOp (l : AsmLine) : Option Instr :=
  match l.mnemonic with
  | "OPEN_SESSION" => asmFinish .openSession l.args
  | "RESYNC" => asmNum1 8 "rid" .resync l.args
  | "BUILD_REQ" => asmBuildReq l.args
  | "ENC_RSCB" => asmEncRscb l.args
  | "ENC_INV" => asmEncInv l.args
  | "RX_PUSH" => asmRxPush l.args
  | "DECODE_ENV" => asmFinish .decodeEnv l.args
  | "DECODE_RESP" => asmFinish .decodeResp l.args
  | "TIMEOUT" => asmFinish .timeout l.args
  | "ABANDON" => asmFinish .abandon l.args
  | "FORCE_SEQ" => asmNum1 8 "v" .forceSeq l.args
  | "CUR_SET" => asmNum1 32 "pos" .curSet l.args
  | "CUR_RD" => asmNum1 16 "n" .curRd l.args
  | "CUR_RD8" => asmFinish .curRd8 l.args
  | "CUR_RD16" => asmFinish .curRd16 l.args
  | "CUR_RD32" => asmFinish .curRd32 l.args
  | _ => none

/-- The op word of a line of assembler (R85). -/
def assembleLine (line : String) : Option Bytes :=
  ((parseLine line).bind assembleOp).map encode

end Sys2Proof.Machine
end

