-- ==== Sys2Proof/Machine/HostRead.lean ====
section
/-! DEFINITION. The host's status read (10_state.md R46): no op, no side effect; what it shows and what the model refuses (R34, R165(c)). -/

namespace Sys2Proof.Machine

/-- The registers of R44, by name. -/
inductive Reg where
  | seq | await | pendKind | pendCmd | pendSeq | pendRid | needResync | callerErr
  | rxbuf | curPos | err | errSub | errPos | seqMismatch | ridMismatch | resKind | resValid
  | txLast | envPcb | envRid | envInfo | rscbBlocks | rscbData
  | invStop | invTotal | invCount | invTags | curData
  deriving DecidableEq, Repr

/-- What a register shows. -/
inductive RegValue where
  | num (n : Nat)
  | bytes (b : Bytes)
  | tags (t : List TagRecord)
  deriving DecidableEq, Repr

/-- Who may read a register through the status read (R34, R46). -/
inductive Access where
  | always
  | result (k : ResKind)   -- a result register, of this result kind
  | never
  deriving DecidableEq, Repr

/-- The access rule of each register: SEQ, PEND_* and RXBUF are not readable (R46); a result register only when RES_KIND names it (R34). -/
def Reg.access : Reg → Access
  | .seq => .never
  | .await => .always
  | .pendKind => .never
  | .pendCmd => .never
  | .pendSeq => .never
  | .pendRid => .never
  | .needResync => .always
  | .callerErr => .always
  | .rxbuf => .never
  | .curPos => .always
  | .err => .always
  | .errSub => .always
  | .errPos => .always
  | .seqMismatch => .always
  | .ridMismatch => .always
  | .resKind => .always
  | .resValid => .always
  | .txLast => .result .tx
  | .envPcb => .result .env
  | .envRid => .result .env
  | .envInfo => .result .env
  | .rscbBlocks => .result .rscb
  | .rscbData => .result .rscb
  | .invStop => .result .inv
  | .invTotal => .result .inv
  | .invCount => .result .inv
  | .invTags => .result .inv
  | .curData => .result .cur

/-- The value of `CUR_DATA` as the host sees it: bytes for CUR_RD, an unsigned integer for the others (R40). -/
def CurData.value : CurData → RegValue
  | .bytes v => .bytes v
  | .u8 v => .num v.toNat
  | .u16 v => .num v.toNat
  | .u32 v => .num v.toNat

/-- The value a register holds. "A model's observation may still read every register" (R46). -/
def regValue (r : Reg) (s : State) : RegValue :=
  match r with
  | .seq => .num s.seq.toNat
  | .await => .num s.await.toNat
  | .pendKind => .num s.pendKind.code.toNat
  | .pendCmd => .num s.pendCmd.toNat
  | .pendSeq => .num s.pendSeq.toNat
  | .pendRid => .num s.pendRid.toNat
  | .needResync => .num s.needResync.toNat
  | .callerErr => .num s.callerErr.toNat
  | .rxbuf => .bytes s.rxbuf
  | .curPos => .num s.curPos
  | .err => .num s.status.err.code.toNat
  | .errSub => .num s.status.sub.toNat
  | .errPos => .num s.status.pos
  | .seqMismatch => .num s.seqMismatch.toNat
  | .ridMismatch => .num s.ridMismatch.toNat
  | .resKind => .num s.resKind.code.toNat
  | .resValid => .num s.resValid.toNat
  | .txLast => .bytes s.txLast
  | .envPcb => .num s.envPcb.toNat
  | .envRid => .num s.envRid.toNat
  | .envInfo => .bytes s.envInfo
  | .rscbBlocks => .num s.rscbBlocks.toNat
  | .rscbData => .bytes s.rscbData
  | .invStop => .num s.invStop.toNat
  | .invTotal => .num s.invTotal.toNat
  | .invCount => .num s.invCount.toNat
  | .invTags => .tags s.invTags
  | .curData => s.curData.value

/-- The host's status read of one register (R34, R46). -/
def hostRead (r : Reg) (s : State) : Host.Outcome RegValue Fault Refusal :=
  match r.access with
  | .always => .next (regValue r s)
  | .result k => if s.resValid ∧ s.resKind = k then .next (regValue r s) else .refused .resultNotNamed
  | .never => .refused .notHostReadable

end Sys2Proof.Machine
end

