-- ==== Sys2Proof/Machine/Run.lean ====
section
/-! DEFINITION. A run: a finite list of ops, its outcome and its verdict (70_reset_and_hazards.md R157, R165, R166). -/

namespace Sys2Proof.Machine

/-- `k` steps, collecting STATUS after each: the final state and the list of STATUS values (R166). -/
def runSteps : Nat → State → Host.Outcome (State × List Status) Fault Refusal
  | 0, s => .next (s, [])
  | k + 1, s =>
    match step s with
    | .next s' =>
      match runSteps k s' with
      | .next (t, l) => .next (t, s'.status :: l)
      | .fault f => .fault f
      | .refused r => .refused r
    | .fault f => .fault f
    | .refused r => .refused r

/-- The run of a finite list of op words on a block whose port is empty: it ends when the last op has ended (R166). The TX stream of the outcome is the final state's. -/
def runOps (words : List Bytes) (s : State) : Host.Outcome (State × List Status) Fault Refusal :=
  runSteps words.length { s with port := words.map .op }

/-- The meanings of a list of ops one after another, each from the state the one before it left (20_memory.md R60). -/
def execAll : List Instr → State → Host.Outcome State Fault Refusal
  | [], s => .next s
  | i :: is, s =>
    match exec i s with
    | .next t => execAll is t
    | .fault f => .fault f
    | .refused r => .refused r

/-- The run that has led to a state is faulty: CALLER_ERR is 1 (R157), or was 1 and has been cleared, for the fault of a run is never cleared within it (R165(b)). DEDUCED, log 20: that OPEN_SESSION and reset, which clear the register (10_state.md R29), do not end the run. -/
def runFaulty (s : State) : Bool := s.callerErr || s.callerErrPast

/-- The verdict on a finished run: a faulty run ends in the fault (R157, R165(b); that it is a verdict and stops no step is log 9, that it looks back past OPEN_SESSION and reset is log 20). -/
def endOfRun (s : State) : Host.Outcome State Fault Refusal :=
  if runFaulty s then .fault .callerError else .next s

end Sys2Proof.Machine
end

