-- ==== Sys2Proof/Machine/WireFormat.lean ====
section
/-! DEFINITION. The response formats of 30_encoding.md R65, R72, R75, R76 as the reader sends them. The block only parses them; these are the spec's layouts written the other way, for statements about the decoders. -/

namespace Sys2Proof.Machine

open Sys2Proof.Config

/-- One presence bit of a flag byte. -/
def flagBit (present : Bool) (i : Nat) : Byte := (BitVec.ofBool present).setWidth 8 <<< i

/-- The flag byte of a record without embedded-command block; `reserved` supplies the ignored bits 5 and 6 (R76). -/
def tagFlags (reserved : Byte) (t : TagRecord) : Byte :=
  flagBit t.ant.isSome 0 ||| flagBit t.proto.isSome 1 ||| flagBit t.ttype.isSome 2
    ||| flagBit t.serial.isSome 3 ||| flagBit t.mem.isSome 4 ||| (reserved &&& 0x60)

/-- The serial number field: a length byte, then the bytes (R76). -/
def serialField (s : Bytes) : Bytes := BitVec.ofNat 8 s.length :: s

/-- The tag memory field: the bit count low byte first, then the bytes (R76). -/
def memField (m : TagMemory) : Bytes := le16 m.bits ++ m.data

/-- A tag record on the wire (R76). -/
def tagWire (reserved : Byte) (t : TagRecord) : Bytes :=
  tagFlags reserved t :: (t.ant.toList ++ t.proto.toList ++ t.ttype.toList
    ++ (t.serial.map serialField).getD [] ++ (t.mem.map memField).getD [])

/-- A record the wire format can carry and the block accepts: a serial number of at most 255 bytes, a memory payload of `ceil8(bits)` bytes, a recognized air protocol (10_state.md R39; 43_response_decoders.md R120). -/
def tagOk (known : List Byte) (t : TagRecord) : Bool :=
  t.proto.all known.contains && t.serial.all (fun s => s.length ≤ 255)
    && t.mem.all fun m => m.data.length == ceil8 m.bits.toNat

/-- The bytes one record takes (R122). -/
def tagSize (t : TagRecord) : Nat :=
  1 + t.ant.isSome.toNat + t.proto.isSome.toNat + t.ttype.isSome.toNat
    + (t.serial.map fun s => 1 + s.length).getD 0 + (t.mem.map fun m => 2 + m.data.length).getD 0

/-- The parameter field of an INV response; each record comes with its reserved flag bits (R75). -/
def invParams (stop : Byte) (total : Half) (recs : List (Byte × TagRecord)) : Bytes :=
  stop :: (le16 total ++ BitVec.ofNat 8 recs.length :: recs.flatMap fun r => tagWire r.1 r.2)

end Sys2Proof.Machine
end

