-- ==== Sys2Proof/Safety.lean ====
section
/-! DEFINITION. What counts as a safe run, in the terms the statements use: who issues an op, the exchange discipline of the host (70_reset_and_hazards.md R157 to R160), the invariants of the registers (10_state.md R21, R30, R31, R34, R37 to R39) and of the frames emitted (30_encoding.md R65 to R68). -/

namespace Sys2Proof.Machine

open Sys2Proof.Config

/-- The two agents that issue ops (00_scope.md R16). -/
inductive Agent where
  | host
  | transport
  deriving DecidableEq, Repr

/-- The agent that issues an op: the host issues every op except RX_PUSH and TIMEOUT (R16). The block does not check it (log 13). -/
def issuer : Instr → Agent
  | .rxPush _ => .transport
  | .timeout => .transport
  | .openSession | .resync _ | .buildReq _ _ | .encRscb _ _ _ | .encInv _ _ _ _ | .decodeEnv
  | .decodeResp | .abandon | .forceSeq _ | .curSet _ | .curRd _ | .curRd8 | .curRd16
  | .curRd32 => .host

/-- The I-Block build ops (40_frame_codec.md R87). -/
def isBuild : Instr → Bool
  | .buildReq _ _ | .encRscb _ _ _ | .encInv _ _ _ _ => true
  | .openSession | .resync _ | .rxPush _ | .decodeEnv | .decodeResp | .timeout | .abandon
  | .forceSeq _ | .curSet _ | .curRd _ | .curRd8 | .curRd16 | .curRd32 => false

/-- The ops that clear NEED_RESYNC: RESYNC and OPEN_SESSION (10_state.md R28). -/
def clearsNeedResync : Instr → Bool
  | .resync _ | .openSession => true
  | .buildReq _ _ | .encRscb _ _ _ | .encInv _ _ _ _ | .rxPush _ | .decodeEnv | .decodeResp
  | .timeout | .abandon | .forceSeq _ | .curSet _ | .curRd _ | .curRd8 | .curRd16
  | .curRd32 => false

/-- The ops that write SEQ otherwise than by a build: RESYNC, OPEN_SESSION, FORCE_SEQ (41_sequencer.md R92). -/
def setsSeq : Instr → Bool
  | .resync _ | .openSession | .forceSeq _ => true
  | .buildReq _ _ | .encRscb _ _ _ | .encInv _ _ _ _ | .rxPush _ | .decodeEnv | .decodeResp
  | .timeout | .abandon | .curSet _ | .curRd _ | .curRd8 | .curRd16 | .curRd32 => false

/-- The exchange discipline the host must keep at one op: no build while an exchange is outstanding (R157) or a resync is due (R160), no DECODE_RESP without an exchange (R158). -/
def obeysExchange (i : Instr) (s : State) : Bool :=
  (!isBuild i || (!s.await && !s.needResync)) && (i != .decodeResp || s.await)

/-- A list of ops keeps the exchange discipline from a state on. -/
def obeysAll : List Instr → State → Bool
  | [], _ => true
  | i :: is, s =>
    obeysExchange i s && (match exec i s with
      | .next t => obeysAll is t
      | .fault _ => true
      | .refused _ => true)

/-- How many I-Block builds of a list of ops succeed (41_sequencer.md R100). -/
def buildCount : List Instr → State → Nat
  | [], _ => 0
  | i :: is, s =>
    match exec i s with
    | .next t => (if isBuild i && t.status.err == .none then 1 else 0) + buildCount is t
    | .fault _ => 0
    | .refused _ => 0

/-- RXBUF keeps within RX_BUF_MAX and CUR_POS within RXBUF (10_state.md R30, R31). -/
abbrev RxInv (s : State) : Prop :=
  s.curPos ≤ s.rxbuf.length ∧ within s.cfg.rxBufMax s.rxbuf.length = true

/-- A valid result comes with STATUS clear, and a clear ERR with a clear sub-reason and position (10_state.md R32, R34; 60_exceptions.md R140, R141). -/
abbrev StatusInv (s : State) : Prop :=
  (s.resValid = true → s.status.err = .none) ∧
    (s.status.err = .none → s.status.sub = 0 ∧ s.status.pos = 0)

/-- The result registers have the shapes of 10_state.md R37, R38 and R39. -/
abbrev ResultInv (s : State) : Prop :=
  s.rscbData.length = 14 * s.rscbBlocks.toNat ∧ s.invTags.length = s.invCount.toNat ∧
    ∀ t ∈ s.invTags, tagOk s.cfg.knownAirProtocols t = true

/-- An outstanding exchange excludes a due resync, has a command code the block accepts when it is an I-Block request, and is a resync only where the configuration awaits its response (R23 to R25, R28). -/
abbrev ExchangeInv (s : State) : Prop :=
  s.await = true →
    s.needResync = false ∧
      (s.pendKind = .iBlock → s.cfg.validCmds.contains s.pendCmd = true) ∧
      (s.pendKind = .sBlock → s.cfg.resyncAwaits = true)

/-- A frame the block may emit: a resync S-Block, or an I-Block request with a command code it accepts (30_encoding.md R65 to R68; bit 5 of the resync PCB as configured: log 21). -/
def frameOk (c : Params) (f : Bytes) : Bool :=
  within c.txFrameMax f.length && (match f with
    | [p, _] => p == c.pcbSResync
    | p :: _ :: cmd :: _ =>
      (p == requestPcb c false || p == requestPcb c true) && c.validCmds.contains cmd
    | _ => false)

/-- Every frame of the TX stream, and TXLAST once written, is one the block may emit (20_memory.md R49). -/
abbrev TxInv (s : State) : Prop :=
  (∀ f ∈ s.tx, frameOk s.cfg f = true) ∧ (s.txLast = [] ∨ frameOk s.cfg s.txLast = true)

/-- SEQ holds one of its legal values (10_state.md R20). -/
abbrev SeqInv (s : State) : Prop := s.seq = 0 ∨ s.seq = 1

/-- The invariant every step keeps. -/
abbrev Inv (s : State) : Prop :=
  RxInv s ∧ StatusInv s ∧ ResultInv s ∧ ExchangeInv s ∧ TxInv s

end Sys2Proof.Machine
end

