-- ==== Sys2Proof/Certificates/Slice0/Obligations.lean ====
section
/-! DEFINITION. The statements about the model, each from the numbered rules of spec/. Where a statement answers `.next { s with … }`, the record update is also the frame: every field not named in it, the TX stream and RXBUF among them, is the one of `s`. -/

open Sys2Proof Sys2Proof.Machine Sys2Proof.Config

/-! ### Encoding -/

/-- 30_encoding.md R79, R81: the decoder gives back every well-formed op the encoder wrote, every operand at every value. -/
def Obligations.DecodeEncodeRoundTrip : Prop :=
  ∀ i : Instr, WellFormed i → decode (encode i) = .ok i

/-- 30_encoding.md R79, R83: each op has one word: what the decoder accepts is the encoder's word of a well-formed op. -/
def Obligations.DecodedWordIsTheEncodersWord : Prop :=
  ∀ (w : Bytes) (i : Instr), decode w = .ok i → WellFormed i ∧ encode i = w

/-- 30_encoding.md R79, R80: the word length of each format. -/
def Obligations.WordLengthFollowsTheFormatTable : Prop :=
  (∀ op ∈ ([0x01, 0x07, 0x08, 0x09, 0x0A, 0x0E, 0x0F, 0x10] : Bytes), ∀ body,
      wordLength (op :: body) = some 1) ∧
  (∀ op ∈ ([0x02, 0x0B] : Bytes), ∀ body, wordLength (op :: body) = some 2) ∧
  (∀ rid l0 l1 body,
      wordLength (0x03 :: rid :: l0 :: l1 :: body) = some (4 + (l0.toNat + 256 * l1.toNat))) ∧
  (∀ body, wordLength (0x04 :: body) = some 4) ∧
  (∀ rid opt alen body,
      wordLength (0x05 :: rid :: opt :: alen :: body)
        = some (3 + (if bit opt 0 then 1 + alen.toNat else 0) + (if bit opt 2 then 7 else 0))) ∧
  (∀ rid opt, bit opt 0 = false →
      wordLength [0x05, rid, opt] = some (3 + (if bit opt 2 then 7 else 0))) ∧
  (∀ l0 l1 body, wordLength (0x06 :: l0 :: l1 :: body) = some (3 + (l0.toNat + 256 * l1.toNat))) ∧
  (∀ body, wordLength (0x0C :: body) = some 5) ∧
  (∀ body, wordLength (0x0D :: body) = some 3)

/-- 95_test_vectors.md: the words of W1 (ENC_RSCB) and VF1 (BUILD_REQ) and three more written out from the layouts of R79 (30_encoding.md) decode to the ops they stand for. -/
def Obligations.SampleWordsDecode : Prop :=
  decode [0x04, 0x00, 0x85, 0x03] = .ok (.encRscb 0x00 0x85 0x03) ∧
  decode [0x03, 0x07, 0x02, 0x00, 0x31, 0x00] = .ok (.buildReq 0x07 [0x31, 0x00]) ∧
  decode [0x05, 0x09, 0x05, 0x01, 0x03, 0x03, 0x78, 0x56, 0x34, 0x12, 0xCD, 0xAB]
    = .ok (.encInv 0x09 0x05 (some [0x03]) (some ⟨0x03, 0x12345678, 0xABCD⟩)) ∧
  decode [0x0C, 0x00, 0x00, 0x01, 0x00] = .ok (.curSet 0x00010000) ∧
  decode [0x0D, 0x02, 0x01] = .ok (.curRd 0x0102)

/-- 30_encoding.md R82: an illegal opcode raises Unsupported(OPCODE, 0), an empty word Unsupported(HOSTFMT, 0); nothing but STATUS and RES_VALID changes (the word leaves the port and the op index moves on: logs 3 and 5). -/
def Obligations.IllegalOpcodeRaisesUnsupported : Prop :=
  ∀ (s : State) (rest : List Input), configOk s.cfg = true →
    (∀ (op : Byte) (body : Bytes), s.port = .op (op :: body) :: rest →
        op.toNat = 0 ∨ 0x11 ≤ op.toNat →
        step s = .next { s with
          port := rest, pc := s.pc + 1, status := ⟨.unsupported, 0x01, 0⟩, resValid := false }) ∧
    (s.port = .op [] :: rest →
        step s = .next { s with
          port := rest, pc := s.pc + 1, status := ⟨.unsupported, 0x02, 0⟩, resValid := false })

/-- 30_encoding.md R83: a legal opcode whose word has another length than R79 gives it, or is too short to tell, raises Unsupported(HOSTFMT, 0) before every other check (the word leaves the port and the op index moves on: the model's choice, logs 3 and 5). -/
def Obligations.WrongLengthRaisesHostfmt : Prop :=
  ∀ (s : State) (rest : List Input) (op : Byte) (body : Bytes), configOk s.cfg = true →
    s.port = .op (op :: body) :: rest → 0x01 ≤ op.toNat → op.toNat ≤ 0x10 →
    wordLength (op :: body) ≠ some (body.length + 1) →
    step s = .next { s with
      port := rest, pc := s.pc + 1, status := ⟨.unsupported, 0x02, 0⟩, resValid := false }

/-- 30_encoding.md R84: a set reserved operand bit raises Unsupported(RESERVED_BIT, 0) in every state, so before every other check of the op. -/
def Obligations.ReservedOperandBitsRaise : Prop :=
  ∀ s : State,
    (∀ rid b1 count : Byte, bit b1 6 = true →
      exec (.encRscb rid b1 count) s
        = .next { s with status := ⟨.unsupported, 0x03, 0⟩, resValid := false }) ∧
    (∀ (rid opt : Byte) (ant : Option Bytes) (stop : Option StopTrigger), 16 ≤ opt.toNat →
      exec (.encInv rid opt ant stop) s
        = .next { s with status := ⟨.unsupported, 0x03, 0⟩, resValid := false })

/-! ### Taking an input -/

/-- 00_scope.md R16, R18; 20_memory.md R60: the next word on the port, when it decodes, is executed as the op it stands for; the word leaves the port and the op index moves on (the model's choice, logs 3 and 5). -/
def Obligations.StepRunsTheDecodedOp : Prop :=
  ∀ (s : State) (w : Bytes) (rest : List Input) (i : Instr), configOk s.cfg = true →
    s.port = .op w :: rest → decode w = .ok i →
    step s = exec i { s with port := rest, pc := s.pc + 1 }

/-- 70_reset_and_hazards.md R153 and log 4 (the model's reading): with nothing on the port the block waits. -/
def Obligations.EmptyPortWaits : Prop :=
  ∀ s : State, configOk s.cfg = true → s.port = [] → step s = .next s

/-- 70_reset_and_hazards.md R155: the constraints on a configuration, and the refusal of a run that breaks one, checked at every step (the model's choice, log 8). -/
def Obligations.BadConfigurationIsRefused : Prop :=
  (∀ c : Params, configOk c = true ↔
    (bit c.pcbIBase 6 = false ∧ bit c.pcbIBase 5 = false) ∧
    (pcbKind c c.pcbIBase = .iBlock ∧ pcbKind c (c.pcbIBase ||| 0x40) = .iBlock) ∧
    pcbKind c c.pcbSResync = .sBlock ∧
    (c.stopTime ≠ c.stopAttempts ∧ c.stopTime ≠ c.stopTags ∧ c.stopTime ≠ c.stopUncond ∧
      c.stopAttempts ≠ c.stopTags ∧ c.stopAttempts ≠ c.stopUncond ∧ c.stopTags ≠ c.stopUncond) ∧
    (0x01 ∈ c.validCmds ∧ 0x31 ∈ c.validCmds) ∧
    ∀ m, c.rxBufMax = some m → 2 ≤ m) ∧
  ∀ s : State, configOk s.cfg = false → step s = .refused .badConfig

/-- 10_state.md R44, 70_reset_and_hazards.md R154: the table's values after the reset input, after OPEN_SESSION (RES_VALID 1) and in the reset state of every configuration. The TX stream is kept (R42), and so is the fault of the run when CALLER_ERR is cleared (R165(b); log 20); the port, the op index and the configuration are the model's own fields (logs 1, 3, 5). -/
def Obligations.ResetAndOpenSessionRestoreTheTable : Prop :=
  (∀ (s : State) (rest : List Input), configOk s.cfg = true → s.port = .reset :: rest →
    step s = .next ⟨0, false, .iBlock, 0x00, false, 0x00, false, false, [], 0, ⟨.none, 0, 0⟩,
      false, false, .none, false, [], 0x00, 0x00, [], 0, [], 0, 0, 0, [], .bytes [],
      s.tx, s.callerErrPast || s.callerErr, s.pc, rest, s.cfg⟩) ∧
  (∀ s : State,
    exec .openSession s = .next ⟨0, false, .iBlock, 0x00, false, 0x00, false, false, [], 0,
      ⟨.none, 0, 0⟩, false, false, .none, true, [], 0x00, 0x00, [], 0, [], 0, 0, 0, [], .bytes [],
      s.tx, s.callerErrPast || s.callerErr, s.pc, s.port, s.cfg⟩) ∧
  (∀ c : Params,
    State.resetWith c = ⟨0, false, .iBlock, 0x00, false, 0x00, false, false, [], 0,
      ⟨.none, 0, 0⟩, false, false, .none, false, [], 0x00, 0x00, [], 0, [], 0, 0, 0, [], .bytes [],
      [], false, 0, [], c⟩)

/-! ### Sequencer ops -/

/-- 41_sequencer.md R94: RESYNC in every state; both settings of RESYNC_AWAITS_RESPONSE. The PCB is PCB_S_RESYNC with all eight bits as configured, bit 5 too (the model's choice where that bit is 1, log 21). Where a two-byte frame is past TX_FRAME_MAX, RESYNC is refused (70_reset_and_hazards.md R165(c); log 7). -/
def Obligations.ResyncSendsTheSBlock : Prop :=
  ∀ (rid : Byte) (s : State),
    (within s.cfg.txFrameMax 2 = true → exec (.resync rid) s = .next { s with
      seq := 0, needResync := false, await := s.cfg.resyncAwaits
      pendKind := if s.cfg.resyncAwaits then .sBlock else s.pendKind
      pendRid := if s.cfg.resyncAwaits then rid else s.pendRid
      rxbuf := [], curPos := 0
      tx := s.tx ++ [[s.cfg.pcbSResync, rid]], txLast := [s.cfg.pcbSResync, rid]
      status := ⟨.none, 0, 0⟩, resKind := .tx, resValid := true }) ∧
    (within s.cfg.txFrameMax 2 = false → exec (.resync rid) s = .refused .txFrameTooLong)

/-- 41_sequencer.md R94, R99: resync is idempotent but for the frame, which each of the two emits. The PCB of that frame is PCB_S_RESYNC with all eight bits as configured, bit 5 too (the model's choice where that bit is 1, log 21). -/
def Obligations.ResyncIsIdempotent : Prop :=
  ∀ (rid : Byte) (s t : State), exec (.resync rid) s = .next t →
    t.seq = 0 ∧ t.needResync = false ∧ t.tx = s.tx ++ [[s.cfg.pcbSResync, rid]] ∧
      exec (.resync rid) t = .next { t with tx := t.tx ++ [[s.cfg.pcbSResync, rid]] }

/-- 41_sequencer.md R95: FORCE_SEQ writes SEQ alone and never raises; an illegal value is detected by the next I-Block build, which leaves it in place. -/
def Obligations.ForceSeqIsCaughtByTheNextBuild : Prop :=
  ∀ (v : Byte) (s : State),
    exec (.forceSeq v) s = .next { s with
      seq := v, status := ⟨.none, 0, 0⟩, resKind := .none, resValid := true } ∧
    ∀ (rid cmd : Byte) (rest : Bytes) (t : State), exec (.forceSeq v) s = .next t →
      v ≠ 0 → v ≠ 1 → s.needResync = false → cmd ∈ s.cfg.validCmds →
      exec (.buildReq rid (cmd :: rest)) t
        = .next { t with status := ⟨.invalidState, 0x01, 0⟩, resValid := false }

/-- 41_sequencer.md R96: TIMEOUT with an exchange outstanding and without one. -/
def Obligations.TimeoutEndsTheExchange : Prop :=
  ∀ s : State,
    (s.await = true → exec .timeout s = .next { s with
      await := false, needResync := true, rxbuf := [], curPos := 0
      status := ⟨.timeout, 0, 0⟩, resValid := false }) ∧
    (s.await = false → exec .timeout s = .next { s with
      status := ⟨.none, 0, 0⟩, resKind := .none, resValid := true })

/-- 41_sequencer.md R97: ABANDON; NEED_RESYNC is set exactly when an exchange was outstanding. -/
def Obligations.AbandonEndsTheExchange : Prop :=
  ∀ s : State, exec .abandon s = .next { s with
    needResync := if s.await then true else s.needResync
    await := false, rxbuf := [], curPos := 0
    status := ⟨.none, 0, 0⟩, resKind := .none, resValid := true }

/-! ### I-Block builds -/

/-- 40_frame_codec.md R87, R88: BUILD_REQ, its checks in order, its refusal past TX_FRAME_MAX (after those checks: the model's choice, log 7) and its effect. -/
def Obligations.BuildReqOpensTheExchange : Prop :=
  ∀ (rid : Byte) (s : State),
    exec (.buildReq rid []) s
      = .next { s with status := ⟨.unsupported, 0x04, 0⟩, resValid := false } ∧
    ∀ (cmd : Byte) (rest : Bytes),
      (cmd ∉ s.cfg.validCmds → exec (.buildReq rid (cmd :: rest)) s
        = .next { s with status := ⟨.unsupported, 0x05, 0⟩, resValid := false }) ∧
      (cmd ∈ s.cfg.validCmds →
        (s.needResync = true → exec (.buildReq rid (cmd :: rest)) s
          = .next { s with status := ⟨.invalidState, 0x02, 0⟩, resValid := false }) ∧
        (s.needResync = false → s.seq ≠ 0 → s.seq ≠ 1 → exec (.buildReq rid (cmd :: rest)) s
          = .next { s with status := ⟨.invalidState, 0x01, 0⟩, resValid := false }) ∧
        (s.needResync = false → s.seq = 0 ∨ s.seq = 1 →
          (within s.cfg.txFrameMax (rest.length + 3) = false →
            exec (.buildReq rid (cmd :: rest)) s = .refused .txFrameTooLong) ∧
          (within s.cfg.txFrameMax (rest.length + 3) = true →
            exec (.buildReq rid (cmd :: rest)) s = .next { s with
              callerErr := s.callerErr || s.await
              seq := s.seq ^^^ 1, await := true, pendKind := .iBlock, pendCmd := cmd
              pendSeq := bit s.seq 0, pendRid := rid, rxbuf := [], curPos := 0
              tx := s.tx ++ [(s.cfg.pcbIBase ||| s.seq <<< 6) :: rid :: cmd :: rest]
              txLast := (s.cfg.pcbIBase ||| s.seq <<< 6) :: rid :: cmd :: rest
              status := ⟨.none, 0, 0⟩, resKind := .tx, resValid := true })))

/-- 42_command_codecs.md R102: ENC_RSCB; 0x01 is an accepted command code by R155(e). Where its five-byte frame is past TX_FRAME_MAX, it is refused (R165(c)), after its other checks (the model's choice, log 7). -/
def Obligations.EncRscbBuildsTheRequest : Prop :=
  ∀ (rid b1 count : Byte) (s : State), 0x01 ∈ s.cfg.validCmds →
    (bit b1 6 = true → exec (.encRscb rid b1 count) s
      = .next { s with status := ⟨.unsupported, 0x03, 0⟩, resValid := false }) ∧
    (bit b1 6 = false → s.needResync = true → exec (.encRscb rid b1 count) s
      = .next { s with status := ⟨.invalidState, 0x02, 0⟩, resValid := false }) ∧
    (bit b1 6 = false → s.needResync = false → s.seq ≠ 0 → s.seq ≠ 1 →
      exec (.encRscb rid b1 count) s
        = .next { s with status := ⟨.invalidState, 0x01, 0⟩, resValid := false }) ∧
    (bit b1 6 = false → s.needResync = false → s.seq = 0 ∨ s.seq = 1 →
      within s.cfg.txFrameMax 5 = false →
      exec (.encRscb rid b1 count) s = .refused .txFrameTooLong) ∧
    (bit b1 6 = false → s.needResync = false → s.seq = 0 ∨ s.seq = 1 →
      within s.cfg.txFrameMax 5 = true →
      exec (.encRscb rid b1 count) s = .next { s with
        callerErr := s.callerErr || s.await
        seq := s.seq ^^^ 1, await := true, pendKind := .iBlock, pendCmd := 0x01
        pendSeq := bit s.seq 0, pendRid := rid, rxbuf := [], curPos := 0
        tx := s.tx ++ [[s.cfg.pcbIBase ||| s.seq <<< 6, rid, 0x01, b1, count]]
        txLast := [s.cfg.pcbIBase ||| s.seq <<< 6, rid, 0x01, b1, count]
        status := ⟨.none, 0, 0⟩, resKind := .tx, resValid := true })

/-- 42_command_codecs.md R106, R107: the errors of ENC_INV in their order, for every op term. Every word gives a term whose stop trigger is present exactly when `opt[2]` = 1; that a term with `opt[2]` = 1 and no stop trigger, which no word carries, passes the stop-type check is the model's choice (log 17). -/
def Obligations.EncInvErrorsInOrder : Prop :=
  ∀ (rid opt : Byte) (ant : Option Bytes) (stop : Option StopTrigger) (s : State),
    0x31 ∈ s.cfg.validCmds →
    (16 ≤ opt.toNat → exec (.encInv rid opt ant stop) s
      = .next { s with status := ⟨.unsupported, 0x03, 0⟩, resValid := false }) ∧
    (opt.toNat < 16 →
      (bit opt 1 = true → exec (.encInv rid opt ant stop) s
        = .next { s with status := ⟨.unsupported, 0x06, 0⟩, resValid := false }) ∧
      (bit opt 1 = false →
        (∀ t, bit opt 2 = true → stop = some t →
          t.type ∉ [s.cfg.stopTime, s.cfg.stopAttempts, s.cfg.stopTags, s.cfg.stopUncond] →
          exec (.encInv rid opt ant stop) s
            = .next { s with status := ⟨.unsupported, 0x07, 0⟩, resValid := false }) ∧
        ((bit opt 2 = true → ∀ t, stop = some t →
            t.type ∈ [s.cfg.stopTime, s.cfg.stopAttempts, s.cfg.stopTags, s.cfg.stopUncond]) →
          (s.needResync = true → exec (.encInv rid opt ant stop) s
            = .next { s with status := ⟨.invalidState, 0x02, 0⟩, resValid := false }) ∧
          (s.needResync = false → s.seq ≠ 0 → s.seq ≠ 1 → exec (.encInv rid opt ant stop) s
            = .next { s with status := ⟨.invalidState, 0x01, 0⟩, resValid := false }))))

/-- 42_command_codecs.md R106, R109, R110; 30_encoding.md R73, R74; 20_memory.md R51: the request ENC_INV builds, the antenna bytes verbatim and the stop trigger in the byte order of STOP_TIMEOUT_ORDER. Where the frame is past TX_FRAME_MAX, ENC_INV is refused (R165(c)), after its other checks (the model's choice, log 7). -/
def Obligations.EncInvBuildsTheRequest : Prop :=
  ∀ (rid opt : Byte) (ant : Option Bytes) (stop : Option StopTrigger) (s : State) (frame : Bytes),
    WellFormed (.encInv rid opt ant stop) → opt.toNat < 16 → bit opt 1 = false →
    (∀ t, stop = some t →
      t.type ∈ [s.cfg.stopTime, s.cfg.stopAttempts, s.cfg.stopTags, s.cfg.stopUncond]) →
    0x31 ∈ s.cfg.validCmds → s.needResync = false → s.seq = 0 ∨ s.seq = 1 →
    frame = (s.cfg.pcbIBase ||| s.seq <<< 6) :: rid :: 0x31 :: opt :: (ant.getD [] ++
      (match stop with
        | none => []
        | some ⟨ty, t, v⟩ =>
          [ty] ++
          (match s.cfg.stopTimeoutOrder with
            | .le => [t.setWidth 8, (t >>> 8).setWidth 8, (t >>> 16).setWidth 8, (t >>> 24).setWidth 8]
            | .be => [(t >>> 24).setWidth 8, (t >>> 16).setWidth 8, (t >>> 8).setWidth 8, t.setWidth 8])
          ++ [v.setWidth 8, (v >>> 8).setWidth 8])) →
    (within s.cfg.txFrameMax frame.length = false →
      exec (.encInv rid opt ant stop) s = .refused .txFrameTooLong) ∧
    (within s.cfg.txFrameMax frame.length = true →
      exec (.encInv rid opt ant stop) s = .next { s with
        callerErr := s.callerErr || s.await
        seq := s.seq ^^^ 1, await := true, pendKind := .iBlock, pendCmd := 0x31
        pendSeq := bit s.seq 0, pendRid := rid, rxbuf := [], curPos := 0
        tx := s.tx ++ [frame], txLast := frame
        status := ⟨.none, 0, 0⟩, resKind := .tx, resValid := true })

/-- 30_encoding.md R67, R71, R81: the PCB of an I-Block request (bit 6 the sequence bit, bit 5 clear, the other bits those of PCB_I_BASE), and `rom`, the reserved bit and `addr` in the second byte of an RSCB request. -/
def Obligations.RequestByteLayouts : Prop :=
  (∀ (c : Params) (b : Bool), configOk c = true → ∀ i < 8,
    bit (requestPcb c b) i = if i = 6 then b else if i = 5 then false else bit c.pcbIBase i) ∧
  (∀ (rom : Bool) (addr : BitVec 6),
    (rscbB1 rom addr).toNat = (if rom then 128 else 0) + addr.toNat) ∧
  ∀ b1 : Byte, bit b1 6 = false → rscbB1 (rscbRom b1) (rscbAddr b1) = b1

/-! ### Receiving -/

/-- 43_response_decoders.md R111, 20_memory.md R56: RX_PUSH appends, or is refused past RX_BUF_MAX; CUR_POS is unchanged; bytes that arrive with nothing outstanding make the next DECODE_RESP raise UNEXPECTED_RESPONSE. -/
def Obligations.RxPushAppends : Prop :=
  ∀ (bytes : Bytes) (s : State),
    (within s.cfg.rxBufMax (s.rxbuf.length + bytes.length) = true →
      exec (.rxPush bytes) s = .next { s with
        rxbuf := s.rxbuf ++ bytes, status := ⟨.none, 0, 0⟩, resKind := .none, resValid := true }) ∧
    (within s.cfg.rxBufMax (s.rxbuf.length + bytes.length) = false →
      exec (.rxPush bytes) s = .refused .rxOverflow) ∧
    (∀ t, s.await = false → exec (.rxPush bytes) s = .next t →
      exec .decodeResp t = .next { t with
        needResync := true, rxbuf := [], curPos := 0
        status := ⟨.invalidState, 0x03, 0⟩, resValid := false })

/-- 43_response_decoders.md R111: a response split over two RX_PUSH ops leaves what one RX_PUSH of the whole would. -/
def Obligations.SplitPushEqualsOnePush : Prop :=
  ∀ (a b : Bytes) (s t : State), exec (.rxPush a) s = .next t →
    exec (.rxPush b) t = exec (.rxPush (a ++ b)) s

/-- 40_frame_codec.md R89, R90: DECODE_ENV. -/
def Obligations.DecodeEnvReadsTheEnvelope : Prop :=
  ∀ s : State,
    (s.rxbuf.length < 2 → exec .decodeEnv s = .next { s with
      status := ⟨.truncated, 0x01, s.rxbuf.length⟩, resValid := false }) ∧
    (∀ pcb rid info, s.rxbuf = pcb :: rid :: info → exec .decodeEnv s = .next { s with
      envPcb := pcb, envRid := rid, envInfo := info
      status := ⟨.none, 0, 0⟩, resKind := .env, resValid := true })

/-- 43_response_decoders.md R113, 60_exceptions.md R138, R139: the checks of DECODE_RESP before the command decoder, in order, each with its sub-reason and position and with the epilogue of R114; past them, every error E(sub, pos) raised inside dec_rscb, dec_inv or dec_tag becomes that error of DECODE_RESP. -/
def Obligations.DecodeRespChecksInOrder : Prop :=
  ∀ (s : State) (failed : ErrKind → Byte → Nat → Result),
    (failed = fun kind sub pos => .next { s with
      await := false, needResync := true, rxbuf := [], curPos := 0
      status := ⟨kind, sub, pos⟩, resValid := false }) →
    (s.await = false → exec .decodeResp s = failed .invalidState 0x03 0) ∧
    (s.await = true →
      (s.rxbuf.length < 2 → exec .decodeResp s = failed .truncated 0x01 s.rxbuf.length) ∧
      ∀ pcb rid info, s.rxbuf = pcb :: rid :: info →
        (s.pendKind = .sBlock → pcbKind s.cfg pcb ≠ .sBlock →
          exec .decodeResp s = failed .invalidState 0x04 0) ∧
        (s.pendKind = .iBlock →
          (pcbKind s.cfg pcb ≠ .iBlock → exec .decodeResp s = failed .invalidState 0x04 0) ∧
          (pcbKind s.cfg pcb = .iBlock →
            (bit pcb 5 = true → exec .decodeResp s = failed .unsupported 0x09 0) ∧
            (bit pcb 5 = false →
              (s.cfg.seqCheck = .error → bit pcb 6 ≠ (s.pendSeq ^^ s.cfg.respSeqToggle) →
                exec .decodeResp s = failed .invalidState 0x06 0) ∧
              (s.cfg.seqCheck ≠ .error ∨ bit pcb 6 = (s.pendSeq ^^ s.cfg.respSeqToggle) →
                (info = [] → exec .decodeResp s = failed .truncated 0x02 2) ∧
                ∀ cmd p, info = cmd :: p →
                  (cmd ≠ s.pendCmd → exec .decodeResp s = failed .invalidState 0x05 2) ∧
                  (cmd = s.pendCmd →
                    (cmd ≠ 0x01 → cmd ≠ 0x31 → exec .decodeResp s = failed .unsupported 0x0A 2) ∧
                    (cmd = 0x01 → ∀ f, decRscb p 3 = .error f →
                      exec .decodeResp s = failed f.reason.kind f.reason.sub f.pos) ∧
                    (cmd = 0x31 → ∀ f, decInv s.cfg.knownAirProtocols p 3 = .error f →
                      exec .decodeResp s = failed f.reason.kind f.reason.sub f.pos)))))))

/-- 43_response_decoders.md R114: every error of DECODE_RESP, whatever its origin, ends the exchange, requires a resync, clears RXBUF and writes nothing else but STATUS and RES_VALID. -/
def Obligations.DecodeRespErrorEpilogue : Prop :=
  ∀ s t : State, exec .decodeResp s = .next t → t.status.err ≠ .none →
    t = { s with
      await := false, needResync := true, rxbuf := [], curPos := 0
      status := t.status, resValid := false }

/-- 42_command_codecs.md R104 through DECODE_RESP: a configuration response of exactly 14 bytes a block succeeds, any other data length is LengthMismatch(CFG_BYTES, 4), an empty parameter field Truncated(FIELD, 3). -/
def Obligations.DecodeRespReadsConfiguration : Prop :=
  ∀ (s : State) (pcb rid : Byte), s.await = true → s.pendKind = .iBlock → s.pendCmd = 0x01 →
    pcbKind s.cfg pcb = .iBlock → bit pcb 5 = false →
    s.cfg.seqCheck ≠ .error ∨ bit pcb 6 = (s.pendSeq ^^ s.cfg.respSeqToggle) →
    (∀ (n : Byte) (data : Bytes), s.rxbuf = pcb :: rid :: 0x01 :: n :: data →
      (data.length = 14 * n.toNat → exec .decodeResp s = .next { s with
        rscbBlocks := n, rscbData := data
        seqMismatch := bit pcb 6 != (s.pendSeq ^^ s.cfg.respSeqToggle) && s.cfg.seqCheck == .flag
        ridMismatch := rid != s.pendRid
        await := false, rxbuf := [], curPos := 0
        status := ⟨.none, 0, 0⟩, resKind := .rscb, resValid := true }) ∧
      (data.length ≠ 14 * n.toNat → exec .decodeResp s = .next { s with
        await := false, needResync := true, rxbuf := [], curPos := 0
        status := ⟨.lengthMismatch, 0x01, 4⟩, resValid := false })) ∧
    (s.rxbuf = [pcb, rid, 0x01] → exec .decodeResp s = .next { s with
      await := false, needResync := true, rxbuf := [], curPos := 0
      status := ⟨.truncated, 0x03, 3⟩, resValid := false })

/-- 43_response_decoders.md R113, R118, R119; 30_encoding.md R75, R76: an inventory response, whatever its records (at most 255, each one the wire format carries, its reserved flag bits at any value), is decoded to exactly those records. -/
def Obligations.DecodeRespReadsInventory : Prop :=
  ∀ (s : State) (pcb rid stop : Byte) (total : Half) (recs : List (Byte × TagRecord)),
    s.await = true → s.pendKind = .iBlock → s.pendCmd = 0x31 →
    pcbKind s.cfg pcb = .iBlock → bit pcb 5 = false →
    s.cfg.seqCheck ≠ .error ∨ bit pcb 6 = (s.pendSeq ^^ s.cfg.respSeqToggle) →
    recs.length ≤ 255 → (∀ r ∈ recs, tagOk s.cfg.knownAirProtocols r.2 = true) →
    s.rxbuf = pcb :: rid :: 0x31 :: invParams stop total recs →
    exec .decodeResp s = .next { s with
      invStop := stop, invTotal := total, invCount := BitVec.ofNat 8 recs.length
      invTags := recs.map Prod.snd
      seqMismatch := bit pcb 6 != (s.pendSeq ^^ s.cfg.respSeqToggle) && s.cfg.seqCheck == .flag
      ridMismatch := rid != s.pendRid
      await := false, rxbuf := [], curPos := 0
      status := ⟨.none, 0, 0⟩, resKind := .inv, resValid := true }

/-- 43_response_decoders.md R113 (decision D7): the response to an awaited resync is any frame with an S-class PCB, and nothing more of it is decoded. -/
def Obligations.DecodeRespAcknowledgesResync : Prop :=
  ∀ (s : State) (pcb rid : Byte) (info : Bytes), s.await = true → s.pendKind = .sBlock →
    pcbKind s.cfg pcb = .sBlock → s.rxbuf = pcb :: rid :: info →
    exec .decodeResp s = .next { s with
      seqMismatch := false, ridMismatch := rid != s.pendRid
      await := false, rxbuf := [], curPos := 0
      status := ⟨.none, 0, 0⟩, resKind := .resyncAck, resValid := true }

/-- 43_response_decoders.md R115: the cross-check of the reader's sequence bit under each policy (a mismatch is an error under ERROR only); in every policy SEQ is unchanged. -/
def Obligations.SequenceBitCrossCheck : Prop :=
  ∀ (s t : State) (pcb rid : Byte) (info : Bytes), s.await = true → s.pendKind = .iBlock →
    s.rxbuf = pcb :: rid :: info → exec .decodeResp s = .next t →
    t.seq = s.seq ∧
    (t.status.err = .none →
      (s.cfg.seqCheck = .ignore → t.seqMismatch = false) ∧
      (s.cfg.seqCheck = .flag →
        t.seqMismatch = (bit pcb 6 != (s.pendSeq ^^ s.cfg.respSeqToggle))) ∧
      (s.cfg.seqCheck = .error → bit pcb 6 = (s.pendSeq ^^ s.cfg.respSeqToggle))) ∧
    (s.cfg.seqCheck ≠ .error → ∀ pos, t.status ≠ ⟨.invalidState, 0x06, pos⟩) ∧
    (s.cfg.seqCheck = .error → pcbKind s.cfg pcb = .iBlock → bit pcb 5 = false →
      bit pcb 6 ≠ (s.pendSeq ^^ s.cfg.respSeqToggle) →
      t.status = ⟨.invalidState, 0x06, 0⟩)

/-- 43_response_decoders.md R116: a chained I-Block response raises Unsupported(CHAINING, 0); the resource id decides no error and sets RID_MISMATCH on success. -/
def Obligations.ChainingFailsAndRidIsFlagged : Prop :=
  ∀ (s t : State) (pcb rid : Byte) (info : Bytes), s.await = true →
    s.rxbuf = pcb :: rid :: info → exec .decodeResp s = .next t →
    (s.pendKind = .iBlock → pcbKind s.cfg pcb = .iBlock → bit pcb 5 = true →
      t.status = ⟨.unsupported, 0x09, 0⟩) ∧
    (t.status.err = .none → t.ridMismatch = (rid != s.pendRid)) ∧
    ∀ (rid' : Byte) (t' : State), exec .decodeResp { s with rxbuf := pcb :: rid' :: info } = .next t' →
      t'.status = t.status

/-- 43_response_decoders.md R122: presence follows the flag bits and the bytes taken are those of the present fields. -/
def Obligations.TagPresenceFollowsTheFlags : Prop :=
  ∀ (known : List Byte) (c c' : Cursor) (t : TagRecord), decTag known c = .ok (t, c') →
    ∃ fl, c.buf[c.pos]? = some fl ∧
      t.ant.isSome = bit fl 0 ∧ t.proto.isSome = bit fl 1 ∧ t.ttype.isSome = bit fl 2 ∧
      t.serial.isSome = bit fl 3 ∧ t.mem.isSome = bit fl 4 ∧
      c'.pos = c.pos + (1 + (bit fl 0).toNat + (bit fl 1).toNat + (bit fl 2).toNat
        + (t.serial.map fun s => 1 + s.length).getD 0
        + (t.mem.map fun m => 2 + ceil8 m.bits.toNat).getD 0) ∧
      c'.pos ≤ c'.buf.length ∧ c'.buf = c.buf

/-- 43_response_decoders.md R123: a decoded inventory response has consumed every byte of the parameter field; every strict prefix of a valid one raises Truncated and every longer sequence LengthMismatch(TRAILING) at its first extra byte. -/
def Obligations.InventoryConsumesEveryByte : Prop :=
  (∀ (known : List Byte) (p : Bytes) (base : Nat) (r : Response), decInv known p base = .ok r →
    ∃ stop total count tags, r = .inv stop total count tags ∧ tags.length = count.toNat ∧
      p.length = 4 + (tags.map tagSize).sum) ∧
  (∀ (known : List Byte) (stop : Byte) (total : Half) (recs : List (Byte × TagRecord)) (base : Nat),
    recs.length ≤ 255 → (∀ r ∈ recs, tagOk known r.2 = true) →
    (∀ k, k < (invParams stop total recs).length →
      ∃ pos, decInv known ((invParams stop total recs).take k) base = .error ⟨.field, pos⟩) ∧
    (∀ x xs, decInv known (invParams stop total recs ++ x :: xs) base
      = .error ⟨.trailing, base + (invParams stop total recs).length⟩))

/-- 43_response_decoders.md R120: an unrecognized air-protocol type id raises UnknownProtocol with the byte and its offset: in dec_tag, and, in the first bad record of an inventory response, in DECODE_RESP, whose ERR_SUB is the byte and whose ERR_POS is its frame offset. -/
def Obligations.UnknownProtocolIsReported : Prop :=
  (∀ (known : List Byte) (pre post ant : Bytes) (base : Nat) (fl v : Byte),
    bit fl 1 = true → ant.length = (bit fl 0).toNat → v ∉ known →
    decTag known ⟨pre ++ fl :: (ant ++ v :: post), base, pre.length⟩
      = .error ⟨.unknownProtocol v, base + pre.length + 1 + ant.length⟩) ∧
  ∀ (s : State) (pcb rid stop count fl v : Byte) (total : Half) (recs : List (Byte × TagRecord))
    (good ant post : Bytes),
    s.await = true → s.pendKind = .iBlock → s.pendCmd = 0x31 →
    pcbKind s.cfg pcb = .iBlock → bit pcb 5 = false →
    s.cfg.seqCheck ≠ .error ∨ bit pcb 6 = (s.pendSeq ^^ s.cfg.respSeqToggle) →
    (∀ r ∈ recs, tagOk s.cfg.knownAirProtocols r.2 = true) → recs.length < count.toNat →
    good = recs.flatMap (fun r => tagWire r.1 r.2) →
    bit fl 1 = true → ant.length = (bit fl 0).toNat → v ∉ s.cfg.knownAirProtocols →
    s.rxbuf = pcb :: rid :: 0x31 :: stop :: (le16 total ++ count ::
      (good ++ fl :: (ant ++ v :: post))) →
    exec .decodeResp s = .next { s with
      await := false, needResync := true, rxbuf := [], curPos := 0
      status := ⟨.unknownProtocol, v, 8 + good.length + ant.length⟩, resValid := false }

/-- 43_response_decoders.md R121: a record that decodes with flag bit 7 clear raises Unsupported(EMBEDDED_COMMAND) with it set, where the embedded-command block would begin; one that fails with bit 7 clear fails alike with it set, the check being the last; no record with bit 7 set decodes. -/
def Obligations.EmbeddedCommandFails : Prop :=
  (∀ (known : List Byte) (pre post : Bytes) (base : Nat) (fl : Byte) (t : TagRecord) (c' : Cursor),
    bit fl 7 = false →
    decTag known ⟨pre ++ fl :: post, base, pre.length⟩ = .ok (t, c') →
    decTag known ⟨pre ++ (fl ||| 0x80) :: post, base, pre.length⟩
      = .error ⟨.embeddedCommand, base + c'.pos⟩) ∧
  (∀ (known : List Byte) (pre post : Bytes) (base : Nat) (fl : Byte) (f : Fail), bit fl 7 = false →
    decTag known ⟨pre ++ fl :: post, base, pre.length⟩ = .error f →
    decTag known ⟨pre ++ (fl ||| 0x80) :: post, base, pre.length⟩ = .error f) ∧
  ∀ (known : List Byte) (c c' : Cursor) (t : TagRecord) (fl : Byte),
    decTag known c = .ok (t, c') → c.buf[c.pos]? = some fl → bit fl 7 = false

/-! ### The host cursor -/

/-- 44_cursor.md R131: CUR_SET. -/
def Obligations.CurSetMovesTheCursor : Prop :=
  ∀ (p : Word) (s : State),
    (p.toNat ≤ s.rxbuf.length → exec (.curSet p) s = .next { s with
      curPos := p.toNat, status := ⟨.none, 0, 0⟩, resKind := .none, resValid := true }) ∧
    (s.rxbuf.length < p.toNat → exec (.curSet p) s = .next { s with
      status := ⟨.truncated, 0x03, s.curPos⟩, resValid := false })

/-- 44_cursor.md R132: CUR_RD. -/
def Obligations.CurRdReadsBytes : Prop :=
  ∀ (n : Half) (s : State),
    (∀ pre bytes post, s.rxbuf = pre ++ bytes ++ post → pre.length = s.curPos →
      bytes.length = n.toNat → exec (.curRd n) s = .next { s with
        curPos := s.curPos + n.toNat, curData := .bytes bytes
        status := ⟨.none, 0, 0⟩, resKind := .cur, resValid := true }) ∧
    (s.rxbuf.length < s.curPos + n.toNat → exec (.curRd n) s = .next { s with
      status := ⟨.truncated, 0x03, s.curPos⟩, resValid := false })

/-- 44_cursor.md R133, R134, R135: CUR_RD8, CUR_RD16 and CUR_RD32, low byte first. -/
def Obligations.CurRdReadsLowByteFirst : Prop :=
  ∀ s : State,
    (∀ b0, s.rxbuf[s.curPos]? = some b0 → exec .curRd8 s = .next { s with
      curPos := s.curPos + 1, curData := .u8 b0
      status := ⟨.none, 0, 0⟩, resKind := .cur, resValid := true }) ∧
    (s.rxbuf.length < s.curPos + 1 → exec .curRd8 s = .next { s with
      status := ⟨.truncated, 0x03, s.curPos⟩, resValid := false }) ∧
    (∀ b0 b1, s.rxbuf[s.curPos]? = some b0 → s.rxbuf[s.curPos + 1]? = some b1 →
      exec .curRd16 s = .next { s with
        curPos := s.curPos + 2, curData := .u16 (BitVec.ofNat 16 (b0.toNat + 256 * b1.toNat))
        status := ⟨.none, 0, 0⟩, resKind := .cur, resValid := true }) ∧
    (s.rxbuf.length < s.curPos + 2 → exec .curRd16 s = .next { s with
      status := ⟨.truncated, 0x03, s.curPos⟩, resValid := false }) ∧
    (∀ b0 b1 b2 b3, s.rxbuf[s.curPos]? = some b0 → s.rxbuf[s.curPos + 1]? = some b1 →
      s.rxbuf[s.curPos + 2]? = some b2 → s.rxbuf[s.curPos + 3]? = some b3 →
      exec .curRd32 s = .next { s with
        curPos := s.curPos + 4
        curData := .u32 (BitVec.ofNat 32
          (b0.toNat + 256 * b1.toNat + 65536 * b2.toNat + 16777216 * b3.toNat))
        status := ⟨.none, 0, 0⟩, resKind := .cur, resValid := true }) ∧
    (s.rxbuf.length < s.curPos + 4 → exec .curRd32 s = .next { s with
      status := ⟨.truncated, 0x03, s.curPos⟩, resValid := false })

/-- 44_cursor.md R136: (a) two reads in a row are one read of both lengths; (b) a read never moves the position back; (c) a CUR op that raises leaves CUR_POS and RXBUF unchanged; (d) every Truncated error of DECODE_RESP has sub-reason FIELD but for the two header checks. -/
def Obligations.CursorReadLaws : Prop :=
  (∀ (a b : Nat) (c c1 c2 : Cursor) (x y : Bytes),
    readN a c = .ok (x, c1) → readN b c1 = .ok (y, c2) → readN (a + b) c = .ok (x ++ y, c2)) ∧
  (∀ (n : Nat) (c c' : Cursor) (x : Bytes), readN n c = .ok (x, c') →
    c.pos ≤ c'.pos ∧ c'.buf = c.buf) ∧
  (∀ (i : Instr) (s t : State),
    i ∈ [Instr.curRd8, .curRd16, .curRd32] ∨ (∃ n, i = .curRd n) ∨ (∃ p, i = .curSet p) →
    exec i s = .next t → t.status.err ≠ .none → t.curPos = s.curPos ∧ t.rxbuf = s.rxbuf) ∧
  (∀ s t : State, exec .decodeResp s = .next t → t.status.err = .truncated →
    t.status.sub = 0x03 ∨ (t.status.sub = 0x01 ∧ s.rxbuf.length < 2) ∨
      (t.status.sub = 0x02 ∧ s.rxbuf.length = 2))

/-! ### Frames of the op families -/

/-- The cursor ops write CUR_POS and CUR_DATA (CUR_SET only CUR_POS), DECODE_ENV the ENV registers, RX_PUSH the end of RXBUF, and each of them STATUS, RES_KIND and RES_VALID, nothing else (44_cursor.md R131 to R135; 40_frame_codec.md R90; 43_response_decoders.md R111). -/
def Obligations.ReadingOpsFrame : Prop :=
  ∀ s t : State,
    (∀ i, i ∈ [Instr.curRd8, .curRd16, .curRd32] ∨ (∃ n, i = .curRd n) → exec i s = .next t →
      t = { s with
        curPos := t.curPos, curData := t.curData
        status := t.status, resKind := t.resKind, resValid := t.resValid }) ∧
    (∀ p, exec (.curSet p) s = .next t →
      t = { s with
        curPos := t.curPos, status := t.status, resKind := t.resKind, resValid := t.resValid }) ∧
    (exec .decodeEnv s = .next t →
      t = { s with
        envPcb := t.envPcb, envRid := t.envRid, envInfo := t.envInfo
        status := t.status, resKind := t.resKind, resValid := t.resValid }) ∧
    (∀ bytes, exec (.rxPush bytes) s = .next t →
      t = { s with
        rxbuf := s.rxbuf ++ bytes
        status := t.status, resKind := t.resKind, resValid := t.resValid })

/-- The builds write the exchange, SEQ, CALLER_ERR, the receive buffer with its cursor, and the TX side at most (40_frame_codec.md R87): the two warning flags, NEED_RESYNC and the result registers of other kinds are unchanged. -/
def Obligations.BuildOpsFrame : Prop :=
  ∀ (i : Instr) (s t : State), isBuild i = true → exec i s = .next t →
    t = { s with
      callerErr := t.callerErr, seq := t.seq, await := t.await, pendKind := t.pendKind
      pendCmd := t.pendCmd, pendSeq := t.pendSeq, pendRid := t.pendRid
      rxbuf := t.rxbuf, curPos := t.curPos, tx := t.tx, txLast := t.txLast
      status := t.status, resKind := t.resKind, resValid := t.resValid }

/-- DECODE_RESP writes the RSCB and INV registers, the warning flags and the end of the exchange at most (43_response_decoders.md R113, R114). -/
def Obligations.DecodeRespFrame : Prop :=
  ∀ s t : State, exec .decodeResp s = .next t →
    t = { s with
      rscbBlocks := t.rscbBlocks, rscbData := t.rscbData, invStop := t.invStop
      invTotal := t.invTotal, invCount := t.invCount, invTags := t.invTags
      seqMismatch := t.seqMismatch, ridMismatch := t.ridMismatch
      await := false, needResync := t.needResync, rxbuf := [], curPos := 0
      status := t.status, resKind := t.resKind, resValid := t.resValid } ∧
    (t.resKind ≠ .rscb ∨ t.status.err ≠ .none →
      t.rscbBlocks = s.rscbBlocks ∧ t.rscbData = s.rscbData) ∧
    (t.resKind ≠ .inv ∨ t.status.err ≠ .none →
      t.invStop = s.invStop ∧ t.invTotal = s.invTotal ∧ t.invCount = s.invCount ∧
        t.invTags = s.invTags)

/-! ### Rules of the whole machine -/

/-- 60_exceptions.md R140: errors are precise. An op that raises changes STATUS and RES_VALID alone, but for the two ops whose writes stand, which change exactly the listed registers. -/
def Obligations.ErrorsArePrecise : Prop :=
  ∀ (i : Instr) (s t : State), exec i s = .next t → t.status.err ≠ .none →
    (i ≠ .decodeResp → i ≠ .timeout → t = { s with status := t.status, resValid := false }) ∧
    (i = .decodeResp ∨ i = .timeout → t = { s with
      await := false, needResync := true, rxbuf := [], curPos := 0
      status := t.status, resValid := false })

/-- 60_exceptions.md R141, 10_state.md R34: an op that ends with ok clears STATUS and sets RES_VALID, an op that raises clears RES_VALID. -/
def Obligations.ResValidTellsSuccess : Prop :=
  ∀ (i : Instr) (s t : State), exec i s = .next t →
    (t.status.err = .none → t.status = ⟨.none, 0, 0⟩ ∧ t.resValid = true) ∧
    (t.status.err ≠ .none → t.resValid = false)

/-- 41_sequencer.md R92, R98: SEQ changes only as the table says. -/
def Obligations.SeqTransitionTable : Prop :=
  (∀ (i : Instr) (s t : State), exec i s = .next t →
    (isBuild i = true → t.status.err = .none → (s.seq = 0 ∨ s.seq = 1) ∧ t.seq = s.seq ^^^ 1) ∧
    (isBuild i = true → t.status.err ≠ .none → t.seq = s.seq) ∧
    (i = .openSession ∨ (∃ rid, i = .resync rid) → t.seq = 0) ∧
    (∀ v, i = .forceSeq v → t.seq = v) ∧
    (isBuild i = false → setsSeq i = false → t.seq = s.seq)) ∧
  ∀ (s t : State) (rest : List Input), s.port = .reset :: rest → step s = .next t → t.seq = 0

/-- 41_sequencer.md R100: over any ops but RESYNC, OPEN_SESSION and FORCE_SEQ, the successful builds stamp alternating sequence bits from SEQ on, one frame each, and SEQ follows. -/
def Obligations.SequenceBitsAlternate : Prop :=
  ∀ (is : List Instr) (s t : State), configOk s.cfg = true → SeqInv s →
    (∀ i ∈ is, setsSeq i = false) → execAll is s = .next t →
    ∃ frames : List Bytes, t.tx = s.tx ++ frames ∧ frames.length = buildCount is s ∧
      (∀ (k : Nat) (f : Bytes), frames[k]? = some f →
        bit (f.headD 0) 6 = (bit s.seq 0 ^^ decide (k % 2 = 1))) ∧
      t.seq = BitVec.ofNat 8 ((s.seq.toNat + frames.length) % 2)

/-- 70_reset_and_hazards.md R160: once a resync is due, no op but RESYNC and OPEN_SESSION lets the block emit a frame, and the resync stays due. -/
def Obligations.NoFrameUntilResync : Prop :=
  ∀ (is : List Instr) (s t : State), s.needResync = true →
    (∀ i ∈ is, clearsNeedResync i = false) → execAll is s = .next t →
    t.needResync = true ∧ t.tx = s.tx ∧ t.txLast = s.txLast

/-- 10_state.md R28: what sets and what clears NEED_RESYNC. -/
def Obligations.NeedResyncIsSticky : Prop :=
  ∀ (i : Instr) (s t : State), exec i s = .next t →
    (clearsNeedResync i = true → t.needResync = false) ∧
    (clearsNeedResync i = false →
      (t.needResync = true ↔
        s.needResync = true ∨ (i = .timeout ∧ s.await = true) ∨ (i = .abandon ∧ s.await = true) ∨
          (i = .decodeResp ∧ t.status.err ≠ .none)))

/-- 10_state.md R23: what sets and what clears AWAIT. -/
def Obligations.AwaitTransitions : Prop :=
  ∀ (i : Instr) (s t : State), exec i s = .next t →
    (isBuild i = true → t.status.err = .none → t.await = true) ∧
    ((∃ rid, i = .resync rid) → t.await = s.cfg.resyncAwaits) ∧
    (i = .decodeResp ∨ i = .timeout ∨ i = .abandon ∨ i = .openSession → t.await = false) ∧
    (i ≠ .decodeResp → i ≠ .timeout → i ≠ .abandon → i ≠ .openSession →
      (∀ rid, i ≠ .resync rid) → (isBuild i = false ∨ t.status.err ≠ .none) → t.await = s.await)

/-- 10_state.md R29: CALLER_ERR is set by a build that succeeds with an exchange outstanding and cleared by OPEN_SESSION and reset only. -/
def Obligations.CallerErrIsSticky : Prop :=
  (∀ (i : Instr) (s t : State), exec i s = .next t → i ≠ .openSession →
    (t.callerErr = true ↔
      s.callerErr = true ∨ (isBuild i = true ∧ t.status.err = .none ∧ s.await = true))) ∧
  (∀ s t : State, exec .openSession s = .next t → t.callerErr = false) ∧
  ∀ (s t : State) (rest : List Input), s.port = .reset :: rest → step s = .next t →
    t.callerErr = false

/-- 70_reset_and_hazards.md R157, R165(b): a host that keeps the exchange discipline leaves the run without a fault, and the verdict on a run is a fault exactly when CALLER_ERR is set or has been set and cleared in it (a verdict and no stop: the model's choice, log 9; a cleared one counts: log 20). -/
def Obligations.DisciplinedHostIsNotFaulty : Prop :=
  (∀ (is : List Instr) (s t : State), runFaulty s = false → obeysAll is s = true →
    execAll is s = .next t → endOfRun t = .next t) ∧
  ∀ s : State,
    (s.callerErr = true ∨ s.callerErrPast = true → endOfRun s = .fault .callerError) ∧
    (s.callerErr = false → s.callerErrPast = false → endOfRun s = .next s)

/-- 20_memory.md R49: an op emits at most one frame, only a build or a RESYNC that ends with ok emits one, and it is the one in TXLAST. -/
def Obligations.FramesOnlyFromSuccessfulOps : Prop :=
  ∀ (i : Instr) (s t : State), exec i s = .next t →
    t.tx = s.tx ∨
      (t.tx = s.tx ++ [t.txLast] ∧ t.status.err = .none ∧
        (isBuild i = true ∨ ∃ rid, i = .resync rid))

/-- 10_state.md R30, R31, R34, R37 to R39; 30_encoding.md R65 to R68: every step keeps the invariant of the registers and of the frames emitted (bit 5 of a resync PCB as configured: the model's choice where it is 1, log 21). -/
def Obligations.StepKeepsTheInvariant : Prop :=
  ∀ s t : State, Inv s → step s = .next t → Inv t ∧ t.cfg = s.cfg

/-- The invariant holds in the reset state of every configuration (R44), so in `State.reset`, whose configuration is the model's choice (log 1). -/
def Obligations.ResetMeetsTheInvariant : Prop :=
  (∀ c : Params, Inv (State.resetWith c) ∧ SeqInv (State.resetWith c)) ∧ Inv State.reset

/-- 10_state.md R21: SEQ leaves {0, 1} only through FORCE_SEQ. -/
def Obligations.SeqStaysLegalWithoutForceSeq : Prop :=
  ∀ (s t : State), SeqInv s → step s = .next t →
    (∀ v rest, s.port ≠ .op [0x0B, v] :: rest) → SeqInv t

/-- 70_reset_and_hazards.md R165: no op faults (the fault is the verdict on a run: the model's choice, log 9), and an op is refused only past a capacity: RX_PUSH past RX_BUF_MAX, RESYNC and the builds where their frame is longer than TX_FRAME_MAX (RESYNC's refusal is log 7). -/
def Obligations.OpsAreRefusedOnlyPastACapacity : Prop :=
  ∀ (i : Instr) (s : State),
    (∀ f, exec i s ≠ .fault f) ∧
    (s.cfg.txFrameMax = none → s.cfg.rxBufMax = none → ∃ t, exec i s = .next t) ∧
    (∀ r, exec i s = .refused r →
      (r = .rxOverflow ∧ ∃ bytes, i = .rxPush bytes ∧
        within s.cfg.rxBufMax (s.rxbuf.length + bytes.length) = false) ∨
      (r = .txFrameTooLong ∧
        ((∃ rid, i = .resync rid ∧ within s.cfg.txFrameMax 2 = false) ∨
        (∃ rid info, i = .buildReq rid info ∧
          within s.cfg.txFrameMax (requestFrame rid info s).length = false) ∨
        (∃ rid b1 count, i = .encRscb rid b1 count ∧
          within s.cfg.txFrameMax (requestFrame rid (rscbInfo b1 count) s).length = false) ∨
        (∃ rid opt ant stop, i = .encInv rid opt ant stop ∧
          within s.cfg.txFrameMax (requestFrame rid (invInfo s.cfg opt ant stop) s).length
            = false))))

/-! ### The host's status read -/

/-- 10_state.md R34, R46: what the status read shows, and what is refused. -/
def Obligations.StatusReadShowsNamedResultsOnly : Prop :=
  ∀ s : State,
    (∀ r ∈ [Reg.await, .needResync, .callerErr, .seqMismatch, .ridMismatch, .curPos, .err,
        .errSub, .errPos, .resKind, .resValid], hostRead r s = .next (regValue r s)) ∧
    (∀ r ∈ [Reg.seq, .pendSeq, .pendCmd, .pendRid, .pendKind, .rxbuf],
      hostRead r s = .refused .notHostReadable) ∧
    (∀ p ∈ [(Reg.txLast, ResKind.tx), (.envPcb, .env), (.envRid, .env), (.envInfo, .env),
        (.rscbBlocks, .rscb), (.rscbData, .rscb), (.invStop, .inv), (.invTotal, .inv),
        (.invCount, .inv), (.invTags, .inv), (.curData, .cur)],
      (s.resValid = true → s.resKind = p.2 → hostRead p.1 s = .next (regValue p.1 s)) ∧
      (s.resValid = false ∨ s.resKind ≠ p.2 → hostRead p.1 s = .refused .resultNotNamed))

/-- 60_exceptions.md R137, R138: the codes the host reads after each error. -/
def Obligations.StatusCodesFollowTheTables : Prop :=
  ∀ (pos : Nat) (s : State),
    (∀ p ∈ [(Reason.envelope, 1, 0x01), (.noCommandCode, 1, 0x02), (.field, 1, 0x03),
        (.cfgBytes, 2, 0x01), (.trailing, 2, 0x02), (.badSeq, 3, 0x01), (.resyncRequired, 3, 0x02),
        (.unexpectedResponse, 3, 0x03), (.wrongBlockType, 3, 0x04), (.commandMismatch, 3, 0x05),
        (.seqMismatch, 3, 0x06), (.opcode, 5, 0x01), (.hostFmt, 5, 0x02), (.reservedBit, 5, 0x03),
        (.noCommand, 5, 0x04), (.commandCode, 5, 0x05), (.airParams, 5, 0x06), (.stopType, 5, 0x07),
        (.embeddedCommand, 5, 0x08), (.chaining, 5, 0x09), (.noResponseCodec, 5, 0x0A),
        (.timeout, 6, 0x00)],
      hostRead .err (raise p.1 pos s) = .next (.num p.2.1) ∧
      hostRead .errSub (raise p.1 pos s) = .next (.num p.2.2)) ∧
    (∀ b : Byte,
      hostRead .err (raise (.unknownProtocol b) pos s) = .next (.num 4) ∧
      hostRead .errSub (raise (.unknownProtocol b) pos s) = .next (.num b.toNat)) ∧
    (∀ r, hostRead .errPos (raise r pos s) = .next (.num pos)) ∧
    (∀ k, hostRead .err (okWith k s) = .next (.num 0))

/-- 30_encoding.md R85: the lines of W1 and of VC10 (its `[03]` written `[3]`; 95_test_vectors.md), of R88's worked example (40_frame_codec.md) and of one CUR_SET assemble to their words. That the bytes of a list stand between brackets with commas between them is the model's choice (log 15). -/
def Obligations.AssemblerLinesGiveTheirWords : Prop :=
  assembleLine "ENC_RSCB rid=0x00, rom=1, addr=5, count=3" = some [0x04, 0x00, 0x85, 0x03] ∧
  assembleLine
      "ENC_INV rid=0x09, opt=0x05, ant=[3], stop_type=3, timeout=0xFFFFFFFF, value=0xFFFF"
    = some [0x05, 0x09, 0x05, 0x01, 0x03, 0x03, 0xFF, 0xFF, 0xFF, 0xFF, 0xFF, 0xFF] ∧
  assembleLine "BUILD_REQ rid=0x07, info=[0x31, 0x00]" = some [0x03, 0x07, 0x02, 0x00, 0x31, 0x00] ∧
  assembleLine "CUR_SET pos=0x00010000" = some [0x0C, 0x00, 0x00, 0x01, 0x00]

/-! ### Runs -/

/-- 70_reset_and_hazards.md R157, R165(b): the fault of a run, a successful build with an exchange outstanding, is never cleared within it: by no op, OPEN_SESSION among them, and by no step, the reset input among them; so a run of ops from a faulty state has the fault as its verdict. That OPEN_SESSION and reset end no run is the model's reading (log 20); the run's verdict is log 9. -/
def Obligations.RunFaultIsNeverCleared : Prop :=
  (∀ (i : Instr) (s t : State), exec i s = .next t →
    (runFaulty t = true ↔
      runFaulty s = true ∨ (isBuild i = true ∧ t.status.err = .none ∧ s.await = true))) ∧
  (∀ s t : State, step s = .next t → runFaulty s = true → runFaulty t = true) ∧
  ∀ (words : List Bytes) (s t : State) (log : List Status), runFaulty s = true →
    runOps words s = .next (t, log) → endOfRun t = .fault .callerError
end

