-- ==== Sys2Proof/Laws/Bytes.lean ====
section
/-! SUPPORT. Byte order and slices: values, round trips, lengths. -/

namespace Sys2Proof.Machine

theorem u16le_eq_append (a b : Byte) : u16le a b = b ++ a := by
  apply BitVec.eq_of_getLsbD_eq
  intro i hi
  simp only [u16le, BitVec.getLsbD_or, BitVec.getLsbD_setWidth, BitVec.getLsbD_shiftLeft,
    BitVec.getLsbD_append, hi, decide_true, Bool.true_and]
  by_cases h : i < 8
  · simp [h]
  · have : i - 8 < 16 := by omega
    simp [h, this, BitVec.getLsbD_of_ge a i (by omega)]

/-- 20_memory.md R50: the value of `[b0, b1]`. -/
theorem u16le_toNat (a b : Byte) : (u16le a b).toNat = a.toNat + 256 * b.toNat := by
  rw [u16le_eq_append, BitVec.toNat_append, ← Nat.shiftLeft_add_eq_or_of_lt a.isLt,
    Nat.shiftLeft_eq]
  omega

theorem u32le_eq_append (a b c d : Byte) : u32le a b c d = (d ++ c ++ b : BitVec 24) ++ a := by
  apply BitVec.eq_of_getLsbD_eq
  intro i hi
  simp only [u32le, BitVec.getLsbD_or, BitVec.getLsbD_setWidth, BitVec.getLsbD_shiftLeft,
    BitVec.getLsbD_append, hi, decide_true, Bool.true_and]
  have ha := BitVec.getLsbD_of_ge a i
  have hb := BitVec.getLsbD_of_ge b (i - 8)
  have hc := BitVec.getLsbD_of_ge c (i - 16)
  by_cases h1 : i < 8
  · have e1 : i < 16 := by omega
    have e2 : i < 24 := by omega
    simp [h1, e1, e2]
  · rw [ha (by omega)]
    by_cases h2 : i < 16
    · have e1 : i - 8 < 8 := by omega
      have e2 : i < 24 := by omega
      have e3 : i - 8 < 32 := by omega
      simp [h1, h2, e1, e2, e3]
    · rw [hb (by omega)]
      have e1 : ¬ i - 8 < 8 := by omega
      by_cases h3 : i < 24
      · have e2 : i - 8 - 8 < 8 := by omega
        have e3 : i - 16 < 32 := by omega
        have e4 : i - 8 - 8 = i - 16 := by omega
        simp [h1, h2, h3, e1, e3, e4, show i - 16 < 8 by omega]
      · rw [hc (by omega)]
        have e2 : ¬ i - 8 - 8 < 8 := by omega
        have e3 : i - 24 < 32 := by omega
        have e4 : i - 8 - 8 - 8 = i - 24 := by omega
        simp [h1, h2, h3, e1, e2, e3, e4]

/-- 20_memory.md R50: the value of `[b0, b1, b2, b3]`. -/
theorem u32le_toNat (a b c d : Byte) :
    (u32le a b c d).toNat = a.toNat + 256 * b.toNat + 65536 * c.toNat + 16777216 * d.toNat := by
  rw [u32le_eq_append, BitVec.toNat_append, ← Nat.shiftLeft_add_eq_or_of_lt a.isLt,
    BitVec.toNat_append, ← Nat.shiftLeft_add_eq_or_of_lt b.isLt,
    BitVec.toNat_append, ← Nat.shiftLeft_add_eq_or_of_lt c.isLt]
  simp only [Nat.shiftLeft_eq]
  omega

@[simp] theorem u16le_le16 (v : Half) : u16le (v.setWidth 8) ((v >>> 8).setWidth 8) = v := by
  apply BitVec.eq_of_toNat_eq
  have := v.isLt
  simp only [u16le_toNat, BitVec.toNat_setWidth, BitVec.toNat_ushiftRight, Nat.shiftRight_eq_div_pow]
  omega

@[simp] theorem u32le_le32 (v : Word) :
    u32le (v.setWidth 8) ((v >>> 8).setWidth 8) ((v >>> 16).setWidth 8) ((v >>> 24).setWidth 8)
      = v := by
  apply BitVec.eq_of_toNat_eq
  have := v.isLt
  simp only [u32le_toNat, BitVec.toNat_setWidth, BitVec.toNat_ushiftRight, Nat.shiftRight_eq_div_pow]
  omega

@[simp] theorem le16_u16le (a b : Byte) : le16 (u16le a b) = [a, b] := by
  have ha := a.isLt
  have hb := b.isLt
  simp only [le16, List.cons.injEq, and_true]
  constructor <;> apply BitVec.eq_of_toNat_eq <;>
    simp only [u16le_toNat, BitVec.toNat_setWidth, BitVec.toNat_ushiftRight,
      Nat.shiftRight_eq_div_pow] <;> omega

@[simp] theorem le32_u32le (a b c d : Byte) : le32 (u32le a b c d) = [a, b, c, d] := by
  have ha := a.isLt
  have hb := b.isLt
  have hc := c.isLt
  have hd := d.isLt
  simp only [le32, List.cons.injEq, and_true]
  refine ⟨?_, ?_, ?_, ?_⟩ <;> apply BitVec.eq_of_toNat_eq <;>
    simp only [u32le_toNat, BitVec.toNat_setWidth, BitVec.toNat_ushiftRight,
      Nat.shiftRight_eq_div_pow] <;> omega

@[simp] theorem le16_length (v : Half) : (le16 v).length = 2 := rfl

@[simp] theorem le32_length (v : Word) : (le32 v).length = 4 := rfl

@[simp] theorem be32_length (v : Word) : (be32 v).length = 4 := rfl

/-- A slice that keeps within the sequence has the length asked for. -/
theorem slice_length {s : Bytes} {i n : Nat} (h : i + n ≤ s.length) : (slice s i n).length = n := by
  simp [slice]; omega

/-- The bytes between a prefix and a suffix. -/
theorem slice_middle (a m b : Bytes) : slice (a ++ m ++ b) a.length m.length = m := by
  simp [slice]

/-- 44_cursor.md R136 (a), for slices: two adjoining slices make one. -/
theorem slice_add (s : Bytes) (i m n : Nat) :
    slice s i m ++ slice s (i + m) n = slice s i (m + n) := by
  simp [slice, List.take_add, List.drop_drop]

end Sys2Proof.Machine
end

