-- ==== Sys2Proof/Laws/Cursor.lean ====
section
/-! SUPPORT. What the cursor's reads can do: one inversion and one success lemma per primitive (44_cursor.md R126 to R130), and the fact that every reader only advances within its buffer. -/

namespace Sys2Proof.Machine

/-- One inversion for the binds the decoders are made of. -/
theorem except_bind_eq_ok {ε α β : Type} {x : Except ε α} {f : α → Except ε β} {b : β} :
    (x >>= f) = .ok b ↔ ∃ a, x = .ok a ∧ f a = .ok b := by
  cases x <;> simp [bind, Except.bind]

/-- A bind that fails: its first part fails, or it succeeds and the second part fails. -/
theorem except_bind_eq_error {ε α β : Type} {x : Except ε α} {f : α → Except ε β} {e : ε} :
    (x >>= f) = .error e ↔ x = .error e ∨ ∃ a, x = .ok a ∧ f a = .error e := by
  cases x <;> simp [bind, Except.bind]

@[simp] theorem except_bind_ok {ε α β : Type} (a : α) (f : α → Except ε β) :
    ((Except.ok a : Except ε α) >>= f) = f a := rfl

@[simp] theorem except_bind_error {ε α β : Type} (e : ε) (f : α → Except ε β) :
    ((Except.error e : Except ε α) >>= f) = .error e := rfl

theorem except_map_eq_ok {ε α β : Type} {x : Except ε α} {f : α → β} {b : β} :
    x.map f = .ok b ↔ ∃ a, x = .ok a ∧ f a = b := by
  cases x <;> simp [Except.map]

theorem except_map_eq_error {ε α β : Type} {x : Except ε α} {f : α → β} {e : ε} :
    x.map f = .error e ↔ x = .error e := by
  cases x <;> simp [Except.map]

/-- R127: when `read_n` succeeds, and with what. -/
theorem readN_eq_ok {n : Nat} {c c' : Cursor} {v : Bytes} :
    readN n c = .ok (v, c') ↔
      c.pos + n ≤ c.buf.length ∧ v = slice c.buf c.pos n ∧ c' = ⟨c.buf, c.base, c.pos + n⟩ := by
  unfold readN
  split
  · constructor
    · intro h; cases h
    · rintro ⟨h, -⟩; omega
  · constructor
    · intro h; cases h; exact ⟨by omega, rfl, rfl⟩
    · rintro ⟨-, rfl, rfl⟩; rfl

/-- R127: when `read_n` fails, and with what. -/
theorem readN_eq_error {n : Nat} {c : Cursor} {f : Fail} :
    readN n c = .error f ↔ c.buf.length < c.pos + n ∧ f = ⟨.field, c.base + c.pos⟩ := by
  unfold readN
  split
  · constructor
    · intro h; cases h; exact ⟨by omega, rfl⟩
    · rintro ⟨-, rfl⟩; rfl
  · constructor
    · intro h; cases h
    · rintro ⟨h, -⟩; omega

/-- A read over the bytes between a prefix and a suffix gives those bytes (R127). -/
theorem readN_middle (pre m post : Bytes) (base : Nat) :
    readN m.length ⟨pre ++ (m ++ post), base, pre.length⟩
      = .ok (m, ⟨pre ++ (m ++ post), base, pre.length + m.length⟩) := by
  rw [readN_eq_ok]
  refine ⟨by simp, ?_, rfl⟩
  rw [← List.append_assoc, slice_middle]

theorem slice_one {s : Bytes} {i : Nat} {b : Byte} (h : s[i]? = some b) : slice s i 1 = [b] := by
  obtain ⟨hi, rfl⟩ := List.getElem?_eq_some_iff.mp h
  unfold slice
  rw [List.drop_eq_getElem_cons hi]
  rfl

/-- R128: when `read_u8` succeeds, and with what. -/
theorem readU8_eq_ok {c c' : Cursor} {b : Byte} :
    readU8 c = .ok (b, c') ↔ c.buf[c.pos]? = some b ∧ c' = ⟨c.buf, c.base, c.pos + 1⟩ := by
  unfold readU8
  rw [except_map_eq_ok]
  constructor
  · rintro ⟨⟨v, d⟩, h, e⟩
    obtain ⟨hl, rfl, rfl⟩ := readN_eq_ok.mp h
    obtain ⟨b', hb⟩ : ∃ b', c.buf[c.pos]? = some b' :=
      ⟨_, List.getElem?_eq_getElem (by omega)⟩
    rw [slice_one hb] at e
    cases e
    exact ⟨hb, rfl⟩
  · rintro ⟨hb, rfl⟩
    have hl := (List.getElem?_eq_some_iff.mp hb).1
    refine ⟨(slice c.buf c.pos 1, ⟨c.buf, c.base, c.pos + 1⟩), readN_eq_ok.mpr ⟨by omega, rfl, rfl⟩, ?_⟩
    simp [slice_one hb, byteAt]

/-- R128: when `read_u8` fails, and with what. -/
theorem readU8_eq_error {c : Cursor} {f : Fail} :
    readU8 c = .error f ↔ c.buf.length < c.pos + 1 ∧ f = ⟨.field, c.base + c.pos⟩ := by
  unfold readU8; rw [except_map_eq_error, readN_eq_error]

theorem slice_two {s : Bytes} {i : Nat} {a b : Byte} (ha : s[i]? = some a)
    (hb : s[i + 1]? = some b) : slice s i 2 = [a, b] := by
  rw [← slice_add s i 1 1, slice_one ha, slice_one hb]; rfl

/-- R129: when `read_u16` succeeds, and with what. -/
theorem readU16_eq_ok {c c' : Cursor} {v : Half} :
    readU16 c = .ok (v, c') ↔
      ∃ a b, c.buf[c.pos]? = some a ∧ c.buf[c.pos + 1]? = some b ∧ v = u16le a b ∧
        c' = ⟨c.buf, c.base, c.pos + 2⟩ := by
  unfold readU16
  rw [except_map_eq_ok]
  constructor
  · rintro ⟨⟨v', d⟩, h, e⟩
    obtain ⟨hl, rfl, rfl⟩ := readN_eq_ok.mp h
    have ha : c.buf[c.pos]? = some c.buf[c.pos] := List.getElem?_eq_getElem (by omega)
    have hb : c.buf[c.pos + 1]? = some c.buf[c.pos + 1] := List.getElem?_eq_getElem (by omega)
    rw [slice_two ha hb] at e
    cases e
    exact ⟨_, _, ha, hb, rfl, rfl⟩
  · rintro ⟨a, b, ha, hb, rfl, rfl⟩
    have hl := (List.getElem?_eq_some_iff.mp hb).1
    refine ⟨(slice c.buf c.pos 2, ⟨c.buf, c.base, c.pos + 2⟩), readN_eq_ok.mpr ⟨by omega, rfl, rfl⟩, ?_⟩
    simp [slice_two ha hb, byteAt]

/-- R129: when `read_u16` fails, and with what. -/
theorem readU16_eq_error {c : Cursor} {f : Fail} :
    readU16 c = .error f ↔ c.buf.length < c.pos + 2 ∧ f = ⟨.field, c.base + c.pos⟩ := by
  unfold readU16; rw [except_map_eq_error, readN_eq_error]

/-- R130: when `read_u32` succeeds, and with what. -/
theorem readU32_eq_ok {c c' : Cursor} {v : Word} :
    readU32 c = .ok (v, c') ↔
      ∃ b0 b1 b2 b3, c.buf[c.pos]? = some b0 ∧ c.buf[c.pos + 1]? = some b1 ∧
        c.buf[c.pos + 2]? = some b2 ∧ c.buf[c.pos + 3]? = some b3 ∧ v = u32le b0 b1 b2 b3 ∧
        c' = ⟨c.buf, c.base, c.pos + 4⟩ := by
  unfold readU32
  rw [except_map_eq_ok]
  constructor
  · rintro ⟨⟨v', d⟩, h, e⟩
    obtain ⟨hl, rfl, rfl⟩ := readN_eq_ok.mp h
    have h0 : c.buf[c.pos]? = some c.buf[c.pos] := List.getElem?_eq_getElem (by omega)
    have h1 : c.buf[c.pos + 1]? = some c.buf[c.pos + 1] := List.getElem?_eq_getElem (by omega)
    have h2 : c.buf[c.pos + 2]? = some c.buf[c.pos + 2] := List.getElem?_eq_getElem (by omega)
    have h3 : c.buf[c.pos + 3]? = some c.buf[c.pos + 3] := List.getElem?_eq_getElem (by omega)
    rw [← slice_add c.buf c.pos 2 2, slice_two h0 h1, slice_two h2 h3] at e
    cases e
    exact ⟨_, _, _, _, h0, h1, h2, h3, rfl, rfl⟩
  · rintro ⟨b0, b1, b2, b3, h0, h1, h2, h3, rfl, rfl⟩
    have hl := (List.getElem?_eq_some_iff.mp h3).1
    refine ⟨(slice c.buf c.pos 4, ⟨c.buf, c.base, c.pos + 4⟩), readN_eq_ok.mpr ⟨by omega, rfl, rfl⟩, ?_⟩
    rw [← slice_add c.buf c.pos 2 2, slice_two h0 h1, slice_two h2 h3]
    simp [byteAt]

/-- R130: when `read_u32` fails, and with what. -/
theorem readU32_eq_error {c : Cursor} {f : Fail} :
    readU32 c = .error f ↔ c.buf.length < c.pos + 4 ∧ f = ⟨.field, c.base + c.pos⟩ := by
  unfold readU32; rw [except_map_eq_error, readN_eq_error]

/-- An absent field reads nothing (43_response_decoders.md R122). -/
@[simp] theorem readIf_false {α : Type} (rd : Reader α) (c : Cursor) :
    readIf false rd c = .ok (none, c) := rfl

@[simp] theorem readIf_true {α : Type} (rd : Reader α) (c : Cursor) :
    readIf true rd c = (rd c).map fun r => (some r.1, r.2) := rfl

theorem readIf_eq_ok {α : Type} {p : Bool} {rd : Reader α} {c c' : Cursor} {o : Option α} :
    readIf p rd c = .ok (o, c') ↔
      (p = false ∧ o = none ∧ c' = c) ∨ (p = true ∧ ∃ v, o = some v ∧ rd c = .ok (v, c')) := by
  cases p
  · simp [eq_comm]
  · simp only [readIf_true, except_map_eq_ok, Prod.mk.injEq, Prod.exists, reduceCtorEq, false_and,
      true_and, false_or]
    constructor
    · rintro ⟨v, d, h, rfl, rfl⟩; exact ⟨v, rfl, h⟩
    · rintro ⟨v, rfl, h⟩; exact ⟨v, c', h, rfl, rfl⟩

/-- A reader only advances, by what it read, and stays within its buffer. -/
structure Advances (c c' : Cursor) : Prop where
  buf   : c'.buf = c.buf
  base  : c'.base = c.base
  le    : c.pos ≤ c'.pos
  bound : c.pos ≤ c.buf.length → c'.pos ≤ c.buf.length

theorem Advances.rfl' (c : Cursor) : Advances c c := ⟨rfl, rfl, le_rfl, id⟩

theorem Advances.comp {a b c : Cursor} (h : Advances a b) (k : Advances b c) : Advances a c :=
  ⟨k.buf.trans h.buf, k.base.trans h.base, h.le.trans k.le,
    fun hp => by have := k.bound (by rw [h.buf]; exact h.bound hp); rwa [h.buf] at this⟩

theorem readN_advances {n : Nat} {c c' : Cursor} {v : Bytes} (h : readN n c = .ok (v, c')) :
    Advances c c' := by
  obtain ⟨hl, -, rfl⟩ := readN_eq_ok.mp h
  exact ⟨rfl, rfl, Nat.le_add_right _ _, fun _ => hl⟩

theorem readU8_advances {c c' : Cursor} {b : Byte} (h : readU8 c = .ok (b, c')) :
    Advances c c' := by
  obtain ⟨hb, rfl⟩ := readU8_eq_ok.mp h
  have := (List.getElem?_eq_some_iff.mp hb).1
  exact ⟨rfl, rfl, Nat.le_add_right _ _, fun _ => this⟩

theorem readU16_advances {c c' : Cursor} {v : Half} (h : readU16 c = .ok (v, c')) :
    Advances c c' := by
  obtain ⟨a, b, -, hb, -, rfl⟩ := readU16_eq_ok.mp h
  have := (List.getElem?_eq_some_iff.mp hb).1
  exact ⟨rfl, rfl, Nat.le_add_right _ _, fun _ => this⟩

theorem readU32_advances {c c' : Cursor} {v : Word} (h : readU32 c = .ok (v, c')) :
    Advances c c' := by
  obtain ⟨_, _, _, _, -, -, -, hb, -, rfl⟩ := readU32_eq_ok.mp h
  have := (List.getElem?_eq_some_iff.mp hb).1
  exact ⟨rfl, rfl, Nat.le_add_right _ _, fun _ => this⟩

theorem readIf_advances {α : Type} {p : Bool} {rd : Reader α} {c c' : Cursor} {o : Option α}
    (hrd : ∀ {v}, rd c = .ok (v, c') → Advances c c') (h : readIf p rd c = .ok (o, c')) :
    Advances c c' := by
  obtain ⟨-, -, rfl⟩ | ⟨-, v, -, hv⟩ := readIf_eq_ok.mp h
  · exact Advances.rfl' _
  · exact hrd hv

/-! The readers of a tag record's fields (43_response_decoders.md R119). -/

theorem readProto_eq_ok {known : List Byte} {c c' : Cursor} {v : Byte} :
    readProto known c = .ok (v, c') ↔ readU8 c = .ok (v, c') ∧ known.contains v = true := by
  unfold readProto
  rw [except_bind_eq_ok]
  constructor
  · rintro ⟨⟨x, d⟩, h, e⟩
    dsimp only at e
    split at e
    · cases e; exact ⟨h, by assumption⟩
    · cases e
  · rintro ⟨h, hk⟩; exact ⟨(v, c'), h, by dsimp only; rw [if_pos hk]⟩

theorem readSerial_eq_ok {c c' : Cursor} {v : Bytes} :
    readSerial c = .ok (v, c') ↔ ∃ l d, readU8 c = .ok (l, d) ∧ readN l.toNat d = .ok (v, c') := by
  unfold readSerial
  rw [except_bind_eq_ok]
  exact ⟨fun ⟨⟨l, d⟩, h, e⟩ => ⟨l, d, h, e⟩, fun ⟨l, d, h, e⟩ => ⟨(l, d), h, e⟩⟩

theorem readMem_eq_ok {c c' : Cursor} {m : TagMemory} :
    readMem c = .ok (m, c') ↔
      ∃ d, readU16 c = .ok (m.bits, d) ∧ readN (ceil8 m.bits.toNat) d = .ok (m.data, c') := by
  unfold readMem
  simp only [except_bind_eq_ok]
  constructor
  · rintro ⟨⟨l, d⟩, h, ⟨x, y⟩, h', e⟩; cases e; exact ⟨d, h, h'⟩
  · rintro ⟨d, h, h'⟩; exact ⟨(m.bits, d), h, (m.data, c'), h', rfl⟩

/-- The reads a successful `dec_tag` makes, in wire order (43_response_decoders.md R119). -/
theorem decTag_eq_ok {known : List Byte} {c c' : Cursor} {t : TagRecord} :
    decTag known c = .ok (t, c') ↔
      ∃ fl c0 c1 c2 c3 c4, readU8 c = .ok (fl, c0) ∧
        readIf (bit fl 0) readU8 c0 = .ok (t.ant, c1) ∧
        readIf (bit fl 1) (readProto known) c1 = .ok (t.proto, c2) ∧
        readIf (bit fl 2) readU8 c2 = .ok (t.ttype, c3) ∧
        readIf (bit fl 3) readSerial c3 = .ok (t.serial, c4) ∧
        readIf (bit fl 4) readMem c4 = .ok (t.mem, c') ∧ bit fl 7 = false := by
  unfold decTag
  simp only [except_bind_eq_ok]
  constructor
  · rintro ⟨⟨fl, c0⟩, h0, ⟨a, c1⟩, h1, ⟨p, c2⟩, h2, ⟨ty, c3⟩, h3, ⟨se, c4⟩, h4, ⟨m, c5⟩, h5, e⟩
    dsimp only at *
    split at e
    · cases e
    · cases e; exact ⟨fl, c0, c1, c2, c3, c4, h0, h1, h2, h3, h4, h5, by simp_all⟩
  · rintro ⟨fl, c0, c1, c2, c3, c4, h0, h1, h2, h3, h4, h5, h7⟩
    refine ⟨(fl, c0), h0, (t.ant, c1), h1, (t.proto, c2), h2, (t.ttype, c3), h3, (t.serial, c4), h4,
      (t.mem, c'), h5, ?_⟩
    simp [h7]

theorem decTag_advances {known : List Byte} {c c' : Cursor} {t : TagRecord}
    (h : decTag known c = .ok (t, c')) : Advances c c' := by
  obtain ⟨fl, c0, c1, c2, c3, c4, h0, h1, h2, h3, h4, h5, -⟩ := decTag_eq_ok.mp h
  refine (readU8_advances h0).comp <| (readIf_advances readU8_advances h1).comp <|
    (readIf_advances (fun h => readU8_advances (readProto_eq_ok.mp h).1) h2).comp <|
    (readIf_advances readU8_advances h3).comp <| (readIf_advances ?_ h4).comp
      (readIf_advances ?_ h5)
  · intro v h
    obtain ⟨l, d, ha, hb⟩ := readSerial_eq_ok.mp h
    exact (readU8_advances ha).comp (readN_advances hb)
  · intro v h
    obtain ⟨d, ha, hb⟩ := readMem_eq_ok.mp h
    exact (readU16_advances ha).comp (readN_advances hb)

theorem decTags_succ_eq_ok {known : List Byte} {n : Nat} {c c' : Cursor} {ts : List TagRecord} :
    decTags known (n + 1) c = .ok (ts, c') ↔
      ∃ t d us, decTag known c = .ok (t, d) ∧ decTags known n d = .ok (us, c') ∧ ts = t :: us := by
  simp only [decTags, except_bind_eq_ok]
  constructor
  · rintro ⟨⟨t, d⟩, h, ⟨us, e⟩, h', k⟩; cases k; exact ⟨t, d, us, h, h', rfl⟩
  · rintro ⟨t, d, us, h, h', rfl⟩; exact ⟨(t, d), h, (us, c'), h', rfl⟩

/-- The reads a successful `dec_inv` makes (43_response_decoders.md R118). -/
theorem decInv_eq_ok {known : List Byte} {p : Bytes} {base : Nat} {r : Response} :
    decInv known p base = .ok r ↔
      ∃ stop total count tags c0 c1 c2 c3, readU8 (cursor p base) = .ok (stop, c0) ∧
        readU16 c0 = .ok (total, c1) ∧ readU8 c1 = .ok (count, c2) ∧
        decTags known count.toNat c2 = .ok (tags, c3) ∧ c3.pos = p.length ∧
        r = .inv stop total count tags := by
  unfold decInv
  simp only [except_bind_eq_ok]
  constructor
  · rintro ⟨⟨stop, c0⟩, h0, ⟨total, c1⟩, h1, ⟨count, c2⟩, h2, ⟨tags, c3⟩, h3, e⟩
    dsimp only at *
    split at e
    · cases e
    · cases e; exact ⟨stop, total, count, tags, c0, c1, c2, c3, h0, h1, h2, h3, by simp_all, rfl⟩
  · rintro ⟨stop, total, count, tags, c0, c1, c2, c3, h0, h1, h2, h3, hp, rfl⟩
    refine ⟨(stop, c0), h0, (total, c1), h1, (count, c2), h2, (tags, c3), h3, ?_⟩
    simp [hp]

/-- When `dec_rscb` succeeds, and with what (42_command_codecs.md R104). -/
theorem decRscb_eq_ok {p : Bytes} {base : Nat} {r : Response} :
    decRscb p base = .ok r ↔
      ∃ n data, p = n :: data ∧ data.length = 14 * n.toNat ∧ r = .rscb n data := by
  unfold decRscb
  simp only [except_bind_eq_ok]
  constructor
  · rintro ⟨⟨n, c⟩, h, e⟩
    obtain ⟨hb, rfl⟩ := readU8_eq_ok.mp h
    cases p with
    | nil => simp [cursor] at hb
    | cons b data =>
      simp only [cursor, List.getElem?_cons_zero, Option.some.injEq] at hb
      subst hb
      dsimp only at e
      split at e
      · cases e
      · obtain ⟨⟨d, c'⟩, hd, e⟩ := except_bind_eq_ok.mp e
        obtain ⟨-, rfl, -⟩ := readN_eq_ok.mp hd
        cases e
        rename_i hl
        simp only [List.length_cons, Nat.add_sub_cancel, Config.cfgBlockSize, ne_eq,
          Decidable.not_not] at hl
        exact ⟨b, data, rfl, hl, by simp [slice, cursor]⟩
  · rintro ⟨n, data, rfl, hl, rfl⟩
    refine ⟨(n, ⟨n :: data, base, 1⟩), readU8_eq_ok.mpr ⟨rfl, rfl⟩, ?_⟩
    simp [Config.cfgBlockSize, hl]
    rw [show readN (14 * n.toNat) ⟨n :: data, base, 1⟩
        = .ok (data, ⟨n :: data, base, 1 + 14 * n.toNat⟩) from
      readN_eq_ok.mpr ⟨by simp; omega, by simp [slice, ← hl], rfl⟩]
    rfl

/-- A read at the host cursor is `RxRead` at CUR_POS, the block's only memory read (20_memory.md R48; 44_cursor.md R132). -/
theorem readN_hostCursor (n : Nat) (s : State) :
    readN n (hostCursor s) = match rxRead s.curPos n s with
      | some v => .ok (v, ⟨s.rxbuf, 0, s.curPos + n⟩)
      | none => .error ⟨.field, s.curPos⟩ := by
  unfold readN rxRead hostCursor
  by_cases h : s.curPos + n ≤ s.rxbuf.length
  · simp [h, Nat.not_lt.mpr h]
  · simp [h, Nat.lt_of_not_le h]

end Sys2Proof.Machine
end

