-- ==== Sys2Proof/Laws/Decode.lean ====
section
/-! SUPPORT. The decoder's formats on words long enough to read (30_encoding.md R79), and what each format accepts: one inversion lemma per format. -/

namespace Sys2Proof

open Sys2Proof.Machine

@[simp] theorem decode_cons (op : Byte) (body : Bytes) : decode (op :: body) = decodeOp op body := rfl

theorem decodeH2_cons (f : Byte → Bytes → Instr) (rid l0 l1 : Byte) (info : Bytes) :
    decodeH2 f (rid :: l0 :: l1 :: info)
      = if info.length = (u16le l0 l1).toNat then .ok (f rid info) else .error .wrongLength := rfl

theorem decodeH5_cons (f : Bytes → Instr) (l0 l1 : Byte) (bytes : Bytes) :
    decodeH5 f (l0 :: l1 :: bytes)
      = if bytes.length = (u16le l0 l1).toNat then .ok (f bytes) else .error .wrongLength := rfl

/-- H4 without the antenna operand. -/
theorem decodeH4_noAnt (f : Byte → Byte → Option Bytes → Option StopTrigger → Instr)
    (rid opt : Byte) (rest : Bytes) (h : bit opt 0 = false) :
    decodeH4 f (rid :: opt :: rest) = decodeStop opt (f rid opt none) rest := by
  simp [decodeH4, h]

/-- H4 with the antenna operand. -/
theorem decodeH4_ant (f : Byte → Byte → Option Bytes → Option StopTrigger → Instr)
    (rid opt alen : Byte) (body : Bytes) (h : bit opt 0 = true) :
    decodeH4 f (rid :: opt :: alen :: body)
      = if alen.toNat ≤ body.length then
          decodeStop opt (f rid opt (some (body.take alen.toNat))) (body.drop alen.toNat)
        else .error .wrongLength := by
  simp [decodeH4, h]

/-- What H0 accepts. -/
theorem decodeH0_eq_ok {i j : Instr} {body : Bytes} :
    decodeH0 i body = .ok j ↔ body = [] ∧ j = i := by
  cases body <;> simp [decodeH0, eq_comm]

/-- What H1 accepts. -/
theorem decodeH1_eq_ok {f : Byte → Instr} {j : Instr} {body : Bytes} :
    decodeH1 f body = .ok j ↔ ∃ a, body = [a] ∧ j = f a := by
  unfold decodeH1
  split
  · simp [eq_comm]
  · next h => exact ⟨fun e => (by cases e), fun ⟨a, e, _⟩ => absurd e (h a)⟩

/-- What H2 accepts. -/
theorem decodeH2_eq_ok {f : Byte → Bytes → Instr} {j : Instr} {body : Bytes} :
    decodeH2 f body = .ok j ↔ ∃ rid l0 l1 info, body = rid :: l0 :: l1 :: info ∧
      info.length = (u16le l0 l1).toNat ∧ j = f rid info := by
  constructor
  · intro h
    unfold decodeH2 at h
    split at h
    · split at h
      · cases h; exact ⟨_, _, _, _, rfl, by assumption, rfl⟩
      · cases h
    · cases h
  · rintro ⟨rid, l0, l1, info, rfl, hl, rfl⟩; rw [decodeH2_cons, if_pos hl]

/-- What H3 accepts. -/
theorem decodeH3_eq_ok {f : Byte → Byte → Byte → Instr} {j : Instr} {body : Bytes} :
    decodeH3 f body = .ok j ↔ ∃ a b c, body = [a, b, c] ∧ j = f a b c := by
  constructor
  · intro h
    unfold decodeH3 at h
    split at h
    · cases h; exact ⟨_, _, _, rfl, rfl⟩
    · cases h
  · rintro ⟨a, b, c, rfl, rfl⟩; rfl

/-- What the stop-trigger part of H4 accepts. -/
theorem decodeStop_eq_ok {opt : Byte} {f : Option StopTrigger → Instr} {j : Instr} {rest : Bytes} :
    decodeStop opt f rest = .ok j ↔
      ∃ st, st.isSome = bit opt 2 ∧ rest = encodeStop st ∧ j = f st := by
  constructor
  · intro h
    unfold decodeStop at h
    split at h
    · next hb =>
      split at h
      · cases h; exact ⟨_, by simp [hb], by simp [encodeStop], rfl⟩
      · cases h
    · next hb =>
      split at h
      · cases h; exact ⟨none, by simpa using hb, rfl, rfl⟩
      · cases h
  · rintro ⟨st, hs, rfl, rfl⟩
    unfold decodeStop
    cases st with
    | none => simp [← hs, encodeStop]
    | some t =>
      simp only [← hs, Option.isSome_some, if_true]
      change Except.ok (f (some ⟨t.type, u32le _ _ _ _, u16le _ _⟩)) = _
      rw [u32le_le32, u16le_le16]

/-- What H5 accepts. -/
theorem decodeH5_eq_ok {f : Bytes → Instr} {j : Instr} {body : Bytes} :
    decodeH5 f body = .ok j ↔ ∃ l0 l1 bytes, body = l0 :: l1 :: bytes ∧
      bytes.length = (u16le l0 l1).toNat ∧ j = f bytes := by
  constructor
  · intro h
    unfold decodeH5 at h
    split at h
    · split at h
      · cases h; exact ⟨_, _, _, rfl, by assumption, rfl⟩
      · cases h
    · cases h
  · rintro ⟨l0, l1, bytes, rfl, hl, rfl⟩; rw [decodeH5_cons, if_pos hl]

/-- What H6 accepts. -/
theorem decodeH6_eq_ok {f : Word → Instr} {j : Instr} {body : Bytes} :
    decodeH6 f body = .ok j ↔ ∃ p, body = le32 p ∧ j = f p := by
  constructor
  · intro h
    unfold decodeH6 at h
    split at h
    · cases h; exact ⟨_, (le32_u32le _ _ _ _).symm, rfl⟩
    · cases h
  · rintro ⟨p, rfl, rfl⟩
    change Except.ok (f (u32le _ _ _ _)) = _
    rw [u32le_le32]

/-- What H7 accepts. -/
theorem decodeH7_eq_ok {f : Half → Instr} {j : Instr} {body : Bytes} :
    decodeH7 f body = .ok j ↔ ∃ n, body = le16 n ∧ j = f n := by
  constructor
  · intro h
    unfold decodeH7 at h
    split at h
    · cases h; exact ⟨_, (le16_u16le _ _).symm, rfl⟩
    · cases h
  · rintro ⟨n, rfl, rfl⟩
    change Except.ok (f (u16le _ _)) = _
    rw [u16le_le16]

/-- What H4 accepts: an antenna operand exactly when `opt[0]` = 1, a stop trigger exactly when `opt[2]` = 1. -/
theorem decodeH4_eq_ok {f : Byte → Byte → Option Bytes → Option StopTrigger → Instr} {j : Instr}
    {body : Bytes} :
    decodeH4 f body = .ok j ↔ ∃ rid opt ant stop,
      body = rid :: opt :: (encodeAnt ant ++ encodeStop stop) ∧
      ant.isSome = bit opt 0 ∧ (ant.getD []).length ≤ 255 ∧ stop.isSome = bit opt 2 ∧
      j = f rid opt ant stop := by
  constructor
  · intro h
    unfold decodeH4 at h
    split at h
    · next rid opt rest =>
      split at h
      · next hb =>
        split at h
        · next alen body =>
          split at h
          · next hl =>
            obtain ⟨st, hs, hr, rfl⟩ := decodeStop_eq_ok.mp h
            have ht : (body.take alen.toNat).length = alen.toNat := by simp; omega
            have := alen.isLt
            refine ⟨rid, opt, some (body.take alen.toNat), st, ?_, by simp [hb], ?_, hs, rfl⟩
            · simp only [encodeAnt, ht, ← hr]; simp
            · rw [Option.getD_some, ht]; omega
          · cases h
        · cases h
      · next hb =>
        obtain ⟨st, hs, rfl, rfl⟩ := decodeStop_eq_ok.mp h
        exact ⟨rid, opt, none, st, rfl, by simpa using hb, by simp, hs, rfl⟩
    · cases h
  · rintro ⟨rid, opt, ant, stop, rfl, ha, hl, hs, rfl⟩
    cases ant with
    | none => rw [decodeH4_noAnt _ _ _ _ ha.symm]; exact decodeStop_eq_ok.mpr ⟨stop, hs, rfl, rfl⟩
    | some a =>
      rw [Option.getD_some] at hl
      have hn : (BitVec.ofNat 8 a.length).toNat = a.length := by
        rw [BitVec.toNat_ofNat, Nat.mod_eq_of_lt (by omega)]
      simp only [encodeAnt, List.cons_append]
      rw [decodeH4_ant _ _ _ _ _ ha.symm, hn, if_pos (by simp)]
      exact decodeStop_eq_ok.mpr ⟨stop, hs, by simp, by simp⟩

end Sys2Proof
end

