-- ==== Sys2Proof/Laws/State.lean ====
section
/-! SUPPORT. One lemma per field per state update, so that no proof unfolds a record update. -/

namespace Sys2Proof.Machine

/-! ### `raise` -/

@[simp] theorem raise_seq (r : Reason) (p : Nat) (s : State) : (raise r p s).seq = s.seq := rfl
@[simp] theorem raise_await (r : Reason) (p : Nat) (s : State) : (raise r p s).await = s.await := rfl
@[simp] theorem raise_pendKind (r : Reason) (p : Nat) (s : State) : (raise r p s).pendKind = s.pendKind := rfl
@[simp] theorem raise_pendCmd (r : Reason) (p : Nat) (s : State) : (raise r p s).pendCmd = s.pendCmd := rfl
@[simp] theorem raise_pendSeq (r : Reason) (p : Nat) (s : State) : (raise r p s).pendSeq = s.pendSeq := rfl
@[simp] theorem raise_pendRid (r : Reason) (p : Nat) (s : State) : (raise r p s).pendRid = s.pendRid := rfl
@[simp] theorem raise_needResync (r : Reason) (p : Nat) (s : State) : (raise r p s).needResync = s.needResync := rfl
@[simp] theorem raise_callerErr (r : Reason) (p : Nat) (s : State) : (raise r p s).callerErr = s.callerErr := rfl
@[simp] theorem raise_rxbuf (r : Reason) (p : Nat) (s : State) : (raise r p s).rxbuf = s.rxbuf := rfl
@[simp] theorem raise_curPos (r : Reason) (p : Nat) (s : State) : (raise r p s).curPos = s.curPos := rfl
@[simp] theorem raise_status (r : Reason) (p : Nat) (s : State) : (raise r p s).status = ⟨r.kind, r.sub, p⟩ := rfl
@[simp] theorem raise_seqMismatch (r : Reason) (p : Nat) (s : State) : (raise r p s).seqMismatch = s.seqMismatch := rfl
@[simp] theorem raise_ridMismatch (r : Reason) (p : Nat) (s : State) : (raise r p s).ridMismatch = s.ridMismatch := rfl
@[simp] theorem raise_resKind (r : Reason) (p : Nat) (s : State) : (raise r p s).resKind = s.resKind := rfl
@[simp] theorem raise_resValid (r : Reason) (p : Nat) (s : State) : (raise r p s).resValid = false := rfl
@[simp] theorem raise_txLast (r : Reason) (p : Nat) (s : State) : (raise r p s).txLast = s.txLast := rfl
@[simp] theorem raise_envPcb (r : Reason) (p : Nat) (s : State) : (raise r p s).envPcb = s.envPcb := rfl
@[simp] theorem raise_envRid (r : Reason) (p : Nat) (s : State) : (raise r p s).envRid = s.envRid := rfl
@[simp] theorem raise_envInfo (r : Reason) (p : Nat) (s : State) : (raise r p s).envInfo = s.envInfo := rfl
@[simp] theorem raise_rscbBlocks (r : Reason) (p : Nat) (s : State) : (raise r p s).rscbBlocks = s.rscbBlocks := rfl
@[simp] theorem raise_rscbData (r : Reason) (p : Nat) (s : State) : (raise r p s).rscbData = s.rscbData := rfl
@[simp] theorem raise_invStop (r : Reason) (p : Nat) (s : State) : (raise r p s).invStop = s.invStop := rfl
@[simp] theorem raise_invTotal (r : Reason) (p : Nat) (s : State) : (raise r p s).invTotal = s.invTotal := rfl
@[simp] theorem raise_invCount (r : Reason) (p : Nat) (s : State) : (raise r p s).invCount = s.invCount := rfl
@[simp] theorem raise_invTags (r : Reason) (p : Nat) (s : State) : (raise r p s).invTags = s.invTags := rfl
@[simp] theorem raise_curData (r : Reason) (p : Nat) (s : State) : (raise r p s).curData = s.curData := rfl
@[simp] theorem raise_tx (r : Reason) (p : Nat) (s : State) : (raise r p s).tx = s.tx := rfl
@[simp] theorem raise_callerErrPast (r : Reason) (p : Nat) (s : State) : (raise r p s).callerErrPast = s.callerErrPast := rfl
@[simp] theorem raise_pc (r : Reason) (p : Nat) (s : State) : (raise r p s).pc = s.pc := rfl
@[simp] theorem raise_port (r : Reason) (p : Nat) (s : State) : (raise r p s).port = s.port := rfl
@[simp] theorem raise_cfg (r : Reason) (p : Nat) (s : State) : (raise r p s).cfg = s.cfg := rfl

/-! ### `okWith` -/

@[simp] theorem okWith_seq (k : ResKind) (s : State) : (okWith k s).seq = s.seq := rfl
@[simp] theorem okWith_await (k : ResKind) (s : State) : (okWith k s).await = s.await := rfl
@[simp] theorem okWith_pendKind (k : ResKind) (s : State) : (okWith k s).pendKind = s.pendKind := rfl
@[simp] theorem okWith_pendCmd (k : ResKind) (s : State) : (okWith k s).pendCmd = s.pendCmd := rfl
@[simp] theorem okWith_pendSeq (k : ResKind) (s : State) : (okWith k s).pendSeq = s.pendSeq := rfl
@[simp] theorem okWith_pendRid (k : ResKind) (s : State) : (okWith k s).pendRid = s.pendRid := rfl
@[simp] theorem okWith_needResync (k : ResKind) (s : State) : (okWith k s).needResync = s.needResync := rfl
@[simp] theorem okWith_callerErr (k : ResKind) (s : State) : (okWith k s).callerErr = s.callerErr := rfl
@[simp] theorem okWith_rxbuf (k : ResKind) (s : State) : (okWith k s).rxbuf = s.rxbuf := rfl
@[simp] theorem okWith_curPos (k : ResKind) (s : State) : (okWith k s).curPos = s.curPos := rfl
@[simp] theorem okWith_status (k : ResKind) (s : State) : (okWith k s).status = ⟨.none, 0, 0⟩ := rfl
@[simp] theorem okWith_seqMismatch (k : ResKind) (s : State) : (okWith k s).seqMismatch = s.seqMismatch := rfl
@[simp] theorem okWith_ridMismatch (k : ResKind) (s : State) : (okWith k s).ridMismatch = s.ridMismatch := rfl
@[simp] theorem okWith_resKind (k : ResKind) (s : State) : (okWith k s).resKind = k := rfl
@[simp] theorem okWith_resValid (k : ResKind) (s : State) : (okWith k s).resValid = true := rfl
@[simp] theorem okWith_txLast (k : ResKind) (s : State) : (okWith k s).txLast = s.txLast := rfl
@[simp] theorem okWith_envPcb (k : ResKind) (s : State) : (okWith k s).envPcb = s.envPcb := rfl
@[simp] theorem okWith_envRid (k : ResKind) (s : State) : (okWith k s).envRid = s.envRid := rfl
@[simp] theorem okWith_envInfo (k : ResKind) (s : State) : (okWith k s).envInfo = s.envInfo := rfl
@[simp] theorem okWith_rscbBlocks (k : ResKind) (s : State) : (okWith k s).rscbBlocks = s.rscbBlocks := rfl
@[simp] theorem okWith_rscbData (k : ResKind) (s : State) : (okWith k s).rscbData = s.rscbData := rfl
@[simp] theorem okWith_invStop (k : ResKind) (s : State) : (okWith k s).invStop = s.invStop := rfl
@[simp] theorem okWith_invTotal (k : ResKind) (s : State) : (okWith k s).invTotal = s.invTotal := rfl
@[simp] theorem okWith_invCount (k : ResKind) (s : State) : (okWith k s).invCount = s.invCount := rfl
@[simp] theorem okWith_invTags (k : ResKind) (s : State) : (okWith k s).invTags = s.invTags := rfl
@[simp] theorem okWith_curData (k : ResKind) (s : State) : (okWith k s).curData = s.curData := rfl
@[simp] theorem okWith_tx (k : ResKind) (s : State) : (okWith k s).tx = s.tx := rfl
@[simp] theorem okWith_callerErrPast (k : ResKind) (s : State) : (okWith k s).callerErrPast = s.callerErrPast := rfl
@[simp] theorem okWith_pc (k : ResKind) (s : State) : (okWith k s).pc = s.pc := rfl
@[simp] theorem okWith_port (k : ResKind) (s : State) : (okWith k s).port = s.port := rfl
@[simp] theorem okWith_cfg (k : ResKind) (s : State) : (okWith k s).cfg = s.cfg := rfl

/-! ### `clearRx` -/

@[simp] theorem clearRx_seq (s : State) : (clearRx s).seq = s.seq := rfl
@[simp] theorem clearRx_await (s : State) : (clearRx s).await = s.await := rfl
@[simp] theorem clearRx_pendKind (s : State) : (clearRx s).pendKind = s.pendKind := rfl
@[simp] theorem clearRx_pendCmd (s : State) : (clearRx s).pendCmd = s.pendCmd := rfl
@[simp] theorem clearRx_pendSeq (s : State) : (clearRx s).pendSeq = s.pendSeq := rfl
@[simp] theorem clearRx_pendRid (s : State) : (clearRx s).pendRid = s.pendRid := rfl
@[simp] theorem clearRx_needResync (s : State) : (clearRx s).needResync = s.needResync := rfl
@[simp] theorem clearRx_callerErr (s : State) : (clearRx s).callerErr = s.callerErr := rfl
@[simp] theorem clearRx_rxbuf (s : State) : (clearRx s).rxbuf = [] := rfl
@[simp] theorem clearRx_curPos (s : State) : (clearRx s).curPos = 0 := rfl
@[simp] theorem clearRx_status (s : State) : (clearRx s).status = s.status := rfl
@[simp] theorem clearRx_seqMismatch (s : State) : (clearRx s).seqMismatch = s.seqMismatch := rfl
@[simp] theorem clearRx_ridMismatch (s : State) : (clearRx s).ridMismatch = s.ridMismatch := rfl
@[simp] theorem clearRx_resKind (s : State) : (clearRx s).resKind = s.resKind := rfl
@[simp] theorem clearRx_resValid (s : State) : (clearRx s).resValid = s.resValid := rfl
@[simp] theorem clearRx_txLast (s : State) : (clearRx s).txLast = s.txLast := rfl
@[simp] theorem clearRx_envPcb (s : State) : (clearRx s).envPcb = s.envPcb := rfl
@[simp] theorem clearRx_envRid (s : State) : (clearRx s).envRid = s.envRid := rfl
@[simp] theorem clearRx_envInfo (s : State) : (clearRx s).envInfo = s.envInfo := rfl
@[simp] theorem clearRx_rscbBlocks (s : State) : (clearRx s).rscbBlocks = s.rscbBlocks := rfl
@[simp] theorem clearRx_rscbData (s : State) : (clearRx s).rscbData = s.rscbData := rfl
@[simp] theorem clearRx_invStop (s : State) : (clearRx s).invStop = s.invStop := rfl
@[simp] theorem clearRx_invTotal (s : State) : (clearRx s).invTotal = s.invTotal := rfl
@[simp] theorem clearRx_invCount (s : State) : (clearRx s).invCount = s.invCount := rfl
@[simp] theorem clearRx_invTags (s : State) : (clearRx s).invTags = s.invTags := rfl
@[simp] theorem clearRx_curData (s : State) : (clearRx s).curData = s.curData := rfl
@[simp] theorem clearRx_tx (s : State) : (clearRx s).tx = s.tx := rfl
@[simp] theorem clearRx_callerErrPast (s : State) : (clearRx s).callerErrPast = s.callerErrPast := rfl
@[simp] theorem clearRx_pc (s : State) : (clearRx s).pc = s.pc := rfl
@[simp] theorem clearRx_port (s : State) : (clearRx s).port = s.port := rfl
@[simp] theorem clearRx_cfg (s : State) : (clearRx s).cfg = s.cfg := rfl

/-! ### `emitTx` -/

@[simp] theorem emitTx_seq (f : Bytes) (s : State) : (emitTx f s).seq = s.seq := rfl
@[simp] theorem emitTx_await (f : Bytes) (s : State) : (emitTx f s).await = s.await := rfl
@[simp] theorem emitTx_pendKind (f : Bytes) (s : State) : (emitTx f s).pendKind = s.pendKind := rfl
@[simp] theorem emitTx_pendCmd (f : Bytes) (s : State) : (emitTx f s).pendCmd = s.pendCmd := rfl
@[simp] theorem emitTx_pendSeq (f : Bytes) (s : State) : (emitTx f s).pendSeq = s.pendSeq := rfl
@[simp] theorem emitTx_pendRid (f : Bytes) (s : State) : (emitTx f s).pendRid = s.pendRid := rfl
@[simp] theorem emitTx_needResync (f : Bytes) (s : State) : (emitTx f s).needResync = s.needResync := rfl
@[simp] theorem emitTx_callerErr (f : Bytes) (s : State) : (emitTx f s).callerErr = s.callerErr := rfl
@[simp] theorem emitTx_rxbuf (f : Bytes) (s : State) : (emitTx f s).rxbuf = s.rxbuf := rfl
@[simp] theorem emitTx_curPos (f : Bytes) (s : State) : (emitTx f s).curPos = s.curPos := rfl
@[simp] theorem emitTx_status (f : Bytes) (s : State) : (emitTx f s).status = s.status := rfl
@[simp] theorem emitTx_seqMismatch (f : Bytes) (s : State) : (emitTx f s).seqMismatch = s.seqMismatch := rfl
@[simp] theorem emitTx_ridMismatch (f : Bytes) (s : State) : (emitTx f s).ridMismatch = s.ridMismatch := rfl
@[simp] theorem emitTx_resKind (f : Bytes) (s : State) : (emitTx f s).resKind = s.resKind := rfl
@[simp] theorem emitTx_resValid (f : Bytes) (s : State) : (emitTx f s).resValid = s.resValid := rfl
@[simp] theorem emitTx_txLast (f : Bytes) (s : State) : (emitTx f s).txLast = f := rfl
@[simp] theorem emitTx_envPcb (f : Bytes) (s : State) : (emitTx f s).envPcb = s.envPcb := rfl
@[simp] theorem emitTx_envRid (f : Bytes) (s : State) : (emitTx f s).envRid = s.envRid := rfl
@[simp] theorem emitTx_envInfo (f : Bytes) (s : State) : (emitTx f s).envInfo = s.envInfo := rfl
@[simp] theorem emitTx_rscbBlocks (f : Bytes) (s : State) : (emitTx f s).rscbBlocks = s.rscbBlocks := rfl
@[simp] theorem emitTx_rscbData (f : Bytes) (s : State) : (emitTx f s).rscbData = s.rscbData := rfl
@[simp] theorem emitTx_invStop (f : Bytes) (s : State) : (emitTx f s).invStop = s.invStop := rfl
@[simp] theorem emitTx_invTotal (f : Bytes) (s : State) : (emitTx f s).invTotal = s.invTotal := rfl
@[simp] theorem emitTx_invCount (f : Bytes) (s : State) : (emitTx f s).invCount = s.invCount := rfl
@[simp] theorem emitTx_invTags (f : Bytes) (s : State) : (emitTx f s).invTags = s.invTags := rfl
@[simp] theorem emitTx_curData (f : Bytes) (s : State) : (emitTx f s).curData = s.curData := rfl
@[simp] theorem emitTx_tx (f : Bytes) (s : State) : (emitTx f s).tx = s.tx ++ [f] := rfl
@[simp] theorem emitTx_callerErrPast (f : Bytes) (s : State) : (emitTx f s).callerErrPast = s.callerErrPast := rfl
@[simp] theorem emitTx_pc (f : Bytes) (s : State) : (emitTx f s).pc = s.pc := rfl
@[simp] theorem emitTx_port (f : Bytes) (s : State) : (emitTx f s).port = s.port := rfl
@[simp] theorem emitTx_cfg (f : Bytes) (s : State) : (emitTx f s).cfg = s.cfg := rfl

/-! ### `resetInput` -/

@[simp] theorem resetInput_seq (s : State) : (resetInput s).seq = 0 := rfl
@[simp] theorem resetInput_await (s : State) : (resetInput s).await = false := rfl
@[simp] theorem resetInput_pendKind (s : State) : (resetInput s).pendKind = .iBlock := rfl
@[simp] theorem resetInput_pendCmd (s : State) : (resetInput s).pendCmd = 0x00 := rfl
@[simp] theorem resetInput_pendSeq (s : State) : (resetInput s).pendSeq = false := rfl
@[simp] theorem resetInput_pendRid (s : State) : (resetInput s).pendRid = 0x00 := rfl
@[simp] theorem resetInput_needResync (s : State) : (resetInput s).needResync = false := rfl
@[simp] theorem resetInput_callerErr (s : State) : (resetInput s).callerErr = false := rfl
@[simp] theorem resetInput_rxbuf (s : State) : (resetInput s).rxbuf = [] := rfl
@[simp] theorem resetInput_curPos (s : State) : (resetInput s).curPos = 0 := rfl
@[simp] theorem resetInput_status (s : State) : (resetInput s).status = ⟨.none, 0, 0⟩ := rfl
@[simp] theorem resetInput_seqMismatch (s : State) : (resetInput s).seqMismatch = false := rfl
@[simp] theorem resetInput_ridMismatch (s : State) : (resetInput s).ridMismatch = false := rfl
@[simp] theorem resetInput_resKind (s : State) : (resetInput s).resKind = .none := rfl
@[simp] theorem resetInput_resValid (s : State) : (resetInput s).resValid = false := rfl
@[simp] theorem resetInput_txLast (s : State) : (resetInput s).txLast = [] := rfl
@[simp] theorem resetInput_envPcb (s : State) : (resetInput s).envPcb = 0x00 := rfl
@[simp] theorem resetInput_envRid (s : State) : (resetInput s).envRid = 0x00 := rfl
@[simp] theorem resetInput_envInfo (s : State) : (resetInput s).envInfo = [] := rfl
@[simp] theorem resetInput_rscbBlocks (s : State) : (resetInput s).rscbBlocks = 0 := rfl
@[simp] theorem resetInput_rscbData (s : State) : (resetInput s).rscbData = [] := rfl
@[simp] theorem resetInput_invStop (s : State) : (resetInput s).invStop = 0 := rfl
@[simp] theorem resetInput_invTotal (s : State) : (resetInput s).invTotal = 0 := rfl
@[simp] theorem resetInput_invCount (s : State) : (resetInput s).invCount = 0 := rfl
@[simp] theorem resetInput_invTags (s : State) : (resetInput s).invTags = [] := rfl
@[simp] theorem resetInput_curData (s : State) : (resetInput s).curData = .bytes [] := rfl
@[simp] theorem resetInput_tx (s : State) : (resetInput s).tx = s.tx := rfl
@[simp] theorem resetInput_callerErrPast (s : State) : (resetInput s).callerErrPast = (s.callerErrPast || s.callerErr) := rfl
@[simp] theorem resetInput_pc (s : State) : (resetInput s).pc = s.pc := rfl
@[simp] theorem resetInput_port (s : State) : (resetInput s).port = s.port := rfl
@[simp] theorem resetInput_cfg (s : State) : (resetInput s).cfg = s.cfg := rfl

/-! ### `dropExchange` -/

@[simp] theorem dropExchange_seq (s : State) : (dropExchange s).seq = s.seq := rfl
@[simp] theorem dropExchange_await (s : State) : (dropExchange s).await = false := rfl
@[simp] theorem dropExchange_pendKind (s : State) : (dropExchange s).pendKind = s.pendKind := rfl
@[simp] theorem dropExchange_pendCmd (s : State) : (dropExchange s).pendCmd = s.pendCmd := rfl
@[simp] theorem dropExchange_pendSeq (s : State) : (dropExchange s).pendSeq = s.pendSeq := rfl
@[simp] theorem dropExchange_pendRid (s : State) : (dropExchange s).pendRid = s.pendRid := rfl
@[simp] theorem dropExchange_needResync (s : State) : (dropExchange s).needResync = true := rfl
@[simp] theorem dropExchange_callerErr (s : State) : (dropExchange s).callerErr = s.callerErr := rfl
@[simp] theorem dropExchange_rxbuf (s : State) : (dropExchange s).rxbuf = [] := rfl
@[simp] theorem dropExchange_curPos (s : State) : (dropExchange s).curPos = 0 := rfl
@[simp] theorem dropExchange_status (s : State) : (dropExchange s).status = s.status := rfl
@[simp] theorem dropExchange_seqMismatch (s : State) : (dropExchange s).seqMismatch = s.seqMismatch := rfl
@[simp] theorem dropExchange_ridMismatch (s : State) : (dropExchange s).ridMismatch = s.ridMismatch := rfl
@[simp] theorem dropExchange_resKind (s : State) : (dropExchange s).resKind = s.resKind := rfl
@[simp] theorem dropExchange_resValid (s : State) : (dropExchange s).resValid = s.resValid := rfl
@[simp] theorem dropExchange_txLast (s : State) : (dropExchange s).txLast = s.txLast := rfl
@[simp] theorem dropExchange_envPcb (s : State) : (dropExchange s).envPcb = s.envPcb := rfl
@[simp] theorem dropExchange_envRid (s : State) : (dropExchange s).envRid = s.envRid := rfl
@[simp] theorem dropExchange_envInfo (s : State) : (dropExchange s).envInfo = s.envInfo := rfl
@[simp] theorem dropExchange_rscbBlocks (s : State) : (dropExchange s).rscbBlocks = s.rscbBlocks := rfl
@[simp] theorem dropExchange_rscbData (s : State) : (dropExchange s).rscbData = s.rscbData := rfl
@[simp] theorem dropExchange_invStop (s : State) : (dropExchange s).invStop = s.invStop := rfl
@[simp] theorem dropExchange_invTotal (s : State) : (dropExchange s).invTotal = s.invTotal := rfl
@[simp] theorem dropExchange_invCount (s : State) : (dropExchange s).invCount = s.invCount := rfl
@[simp] theorem dropExchange_invTags (s : State) : (dropExchange s).invTags = s.invTags := rfl
@[simp] theorem dropExchange_curData (s : State) : (dropExchange s).curData = s.curData := rfl
@[simp] theorem dropExchange_tx (s : State) : (dropExchange s).tx = s.tx := rfl
@[simp] theorem dropExchange_callerErrPast (s : State) : (dropExchange s).callerErrPast = s.callerErrPast := rfl
@[simp] theorem dropExchange_pc (s : State) : (dropExchange s).pc = s.pc := rfl
@[simp] theorem dropExchange_port (s : State) : (dropExchange s).port = s.port := rfl
@[simp] theorem dropExchange_cfg (s : State) : (dropExchange s).cfg = s.cfg := rfl

/-! ### `openExchange` -/

@[simp] theorem openExchange_seq (rid : Byte) (info : Bytes) (s : State) : (openExchange rid info s).seq = (BitVec.ofBool (!seqBit s)).setWidth 8 := rfl
@[simp] theorem openExchange_await (rid : Byte) (info : Bytes) (s : State) : (openExchange rid info s).await = true := rfl
@[simp] theorem openExchange_pendKind (rid : Byte) (info : Bytes) (s : State) : (openExchange rid info s).pendKind = .iBlock := rfl
@[simp] theorem openExchange_pendCmd (rid : Byte) (info : Bytes) (s : State) : (openExchange rid info s).pendCmd = info.headD 0 := rfl
@[simp] theorem openExchange_pendSeq (rid : Byte) (info : Bytes) (s : State) : (openExchange rid info s).pendSeq = seqBit s := rfl
@[simp] theorem openExchange_pendRid (rid : Byte) (info : Bytes) (s : State) : (openExchange rid info s).pendRid = rid := rfl
@[simp] theorem openExchange_needResync (rid : Byte) (info : Bytes) (s : State) : (openExchange rid info s).needResync = s.needResync := rfl
@[simp] theorem openExchange_callerErr (rid : Byte) (info : Bytes) (s : State) : (openExchange rid info s).callerErr = (s.callerErr || s.await) := rfl
@[simp] theorem openExchange_rxbuf (rid : Byte) (info : Bytes) (s : State) : (openExchange rid info s).rxbuf = [] := rfl
@[simp] theorem openExchange_curPos (rid : Byte) (info : Bytes) (s : State) : (openExchange rid info s).curPos = 0 := rfl
@[simp] theorem openExchange_status (rid : Byte) (info : Bytes) (s : State) : (openExchange rid info s).status = s.status := rfl
@[simp] theorem openExchange_seqMismatch (rid : Byte) (info : Bytes) (s : State) : (openExchange rid info s).seqMismatch = s.seqMismatch := rfl
@[simp] theorem openExchange_ridMismatch (rid : Byte) (info : Bytes) (s : State) : (openExchange rid info s).ridMismatch = s.ridMismatch := rfl
@[simp] theorem openExchange_resKind (rid : Byte) (info : Bytes) (s : State) : (openExchange rid info s).resKind = s.resKind := rfl
@[simp] theorem openExchange_resValid (rid : Byte) (info : Bytes) (s : State) : (openExchange rid info s).resValid = s.resValid := rfl
@[simp] theorem openExchange_txLast (rid : Byte) (info : Bytes) (s : State) : (openExchange rid info s).txLast = s.txLast := rfl
@[simp] theorem openExchange_envPcb (rid : Byte) (info : Bytes) (s : State) : (openExchange rid info s).envPcb = s.envPcb := rfl
@[simp] theorem openExchange_envRid (rid : Byte) (info : Bytes) (s : State) : (openExchange rid info s).envRid = s.envRid := rfl
@[simp] theorem openExchange_envInfo (rid : Byte) (info : Bytes) (s : State) : (openExchange rid info s).envInfo = s.envInfo := rfl
@[simp] theorem openExchange_rscbBlocks (rid : Byte) (info : Bytes) (s : State) : (openExchange rid info s).rscbBlocks = s.rscbBlocks := rfl
@[simp] theorem openExchange_rscbData (rid : Byte) (info : Bytes) (s : State) : (openExchange rid info s).rscbData = s.rscbData := rfl
@[simp] theorem openExchange_invStop (rid : Byte) (info : Bytes) (s : State) : (openExchange rid info s).invStop = s.invStop := rfl
@[simp] theorem openExchange_invTotal (rid : Byte) (info : Bytes) (s : State) : (openExchange rid info s).invTotal = s.invTotal := rfl
@[simp] theorem openExchange_invCount (rid : Byte) (info : Bytes) (s : State) : (openExchange rid info s).invCount = s.invCount := rfl
@[simp] theorem openExchange_invTags (rid : Byte) (info : Bytes) (s : State) : (openExchange rid info s).invTags = s.invTags := rfl
@[simp] theorem openExchange_curData (rid : Byte) (info : Bytes) (s : State) : (openExchange rid info s).curData = s.curData := rfl
@[simp] theorem openExchange_tx (rid : Byte) (info : Bytes) (s : State) : (openExchange rid info s).tx = s.tx := rfl
@[simp] theorem openExchange_callerErrPast (rid : Byte) (info : Bytes) (s : State) : (openExchange rid info s).callerErrPast = s.callerErrPast := rfl
@[simp] theorem openExchange_pc (rid : Byte) (info : Bytes) (s : State) : (openExchange rid info s).pc = s.pc := rfl
@[simp] theorem openExchange_port (rid : Byte) (info : Bytes) (s : State) : (openExchange rid info s).port = s.port := rfl
@[simp] theorem openExchange_cfg (rid : Byte) (info : Bytes) (s : State) : (openExchange rid info s).cfg = s.cfg := rfl

/-! ### `closeExchange` -/

@[simp] theorem closeExchange_seq (mm : Bool) (rid : Byte) (s : State) : (closeExchange mm rid s).seq = s.seq := rfl
@[simp] theorem closeExchange_await (mm : Bool) (rid : Byte) (s : State) : (closeExchange mm rid s).await = false := rfl
@[simp] theorem closeExchange_pendKind (mm : Bool) (rid : Byte) (s : State) : (closeExchange mm rid s).pendKind = s.pendKind := rfl
@[simp] theorem closeExchange_pendCmd (mm : Bool) (rid : Byte) (s : State) : (closeExchange mm rid s).pendCmd = s.pendCmd := rfl
@[simp] theorem closeExchange_pendSeq (mm : Bool) (rid : Byte) (s : State) : (closeExchange mm rid s).pendSeq = s.pendSeq := rfl
@[simp] theorem closeExchange_pendRid (mm : Bool) (rid : Byte) (s : State) : (closeExchange mm rid s).pendRid = s.pendRid := rfl
@[simp] theorem closeExchange_needResync (mm : Bool) (rid : Byte) (s : State) : (closeExchange mm rid s).needResync = s.needResync := rfl
@[simp] theorem closeExchange_callerErr (mm : Bool) (rid : Byte) (s : State) : (closeExchange mm rid s).callerErr = s.callerErr := rfl
@[simp] theorem closeExchange_rxbuf (mm : Bool) (rid : Byte) (s : State) : (closeExchange mm rid s).rxbuf = [] := rfl
@[simp] theorem closeExchange_curPos (mm : Bool) (rid : Byte) (s : State) : (closeExchange mm rid s).curPos = 0 := rfl
@[simp] theorem closeExchange_status (mm : Bool) (rid : Byte) (s : State) : (closeExchange mm rid s).status = s.status := rfl
@[simp] theorem closeExchange_seqMismatch (mm : Bool) (rid : Byte) (s : State) : (closeExchange mm rid s).seqMismatch = (mm && s.cfg.seqCheck == .flag) := rfl
@[simp] theorem closeExchange_ridMismatch (mm : Bool) (rid : Byte) (s : State) : (closeExchange mm rid s).ridMismatch = (rid != s.pendRid) := rfl
@[simp] theorem closeExchange_resKind (mm : Bool) (rid : Byte) (s : State) : (closeExchange mm rid s).resKind = s.resKind := rfl
@[simp] theorem closeExchange_resValid (mm : Bool) (rid : Byte) (s : State) : (closeExchange mm rid s).resValid = s.resValid := rfl
@[simp] theorem closeExchange_txLast (mm : Bool) (rid : Byte) (s : State) : (closeExchange mm rid s).txLast = s.txLast := rfl
@[simp] theorem closeExchange_envPcb (mm : Bool) (rid : Byte) (s : State) : (closeExchange mm rid s).envPcb = s.envPcb := rfl
@[simp] theorem closeExchange_envRid (mm : Bool) (rid : Byte) (s : State) : (closeExchange mm rid s).envRid = s.envRid := rfl
@[simp] theorem closeExchange_envInfo (mm : Bool) (rid : Byte) (s : State) : (closeExchange mm rid s).envInfo = s.envInfo := rfl
@[simp] theorem closeExchange_rscbBlocks (mm : Bool) (rid : Byte) (s : State) : (closeExchange mm rid s).rscbBlocks = s.rscbBlocks := rfl
@[simp] theorem closeExchange_rscbData (mm : Bool) (rid : Byte) (s : State) : (closeExchange mm rid s).rscbData = s.rscbData := rfl
@[simp] theorem closeExchange_invStop (mm : Bool) (rid : Byte) (s : State) : (closeExchange mm rid s).invStop = s.invStop := rfl
@[simp] theorem closeExchange_invTotal (mm : Bool) (rid : Byte) (s : State) : (closeExchange mm rid s).invTotal = s.invTotal := rfl
@[simp] theorem closeExchange_invCount (mm : Bool) (rid : Byte) (s : State) : (closeExchange mm rid s).invCount = s.invCount := rfl
@[simp] theorem closeExchange_invTags (mm : Bool) (rid : Byte) (s : State) : (closeExchange mm rid s).invTags = s.invTags := rfl
@[simp] theorem closeExchange_curData (mm : Bool) (rid : Byte) (s : State) : (closeExchange mm rid s).curData = s.curData := rfl
@[simp] theorem closeExchange_tx (mm : Bool) (rid : Byte) (s : State) : (closeExchange mm rid s).tx = s.tx := rfl
@[simp] theorem closeExchange_callerErrPast (mm : Bool) (rid : Byte) (s : State) : (closeExchange mm rid s).callerErrPast = s.callerErrPast := rfl
@[simp] theorem closeExchange_pc (mm : Bool) (rid : Byte) (s : State) : (closeExchange mm rid s).pc = s.pc := rfl
@[simp] theorem closeExchange_port (mm : Bool) (rid : Byte) (s : State) : (closeExchange mm rid s).port = s.port := rfl
@[simp] theorem closeExchange_cfg (mm : Bool) (rid : Byte) (s : State) : (closeExchange mm rid s).cfg = s.cfg := rfl

/-! ### `takeInput` -/

@[simp] theorem takeInput_seq (s : State) : (takeInput s).seq = s.seq := rfl
@[simp] theorem takeInput_await (s : State) : (takeInput s).await = s.await := rfl
@[simp] theorem takeInput_pendKind (s : State) : (takeInput s).pendKind = s.pendKind := rfl
@[simp] theorem takeInput_pendCmd (s : State) : (takeInput s).pendCmd = s.pendCmd := rfl
@[simp] theorem takeInput_pendSeq (s : State) : (takeInput s).pendSeq = s.pendSeq := rfl
@[simp] theorem takeInput_pendRid (s : State) : (takeInput s).pendRid = s.pendRid := rfl
@[simp] theorem takeInput_needResync (s : State) : (takeInput s).needResync = s.needResync := rfl
@[simp] theorem takeInput_callerErr (s : State) : (takeInput s).callerErr = s.callerErr := rfl
@[simp] theorem takeInput_rxbuf (s : State) : (takeInput s).rxbuf = s.rxbuf := rfl
@[simp] theorem takeInput_curPos (s : State) : (takeInput s).curPos = s.curPos := rfl
@[simp] theorem takeInput_status (s : State) : (takeInput s).status = s.status := rfl
@[simp] theorem takeInput_seqMismatch (s : State) : (takeInput s).seqMismatch = s.seqMismatch := rfl
@[simp] theorem takeInput_ridMismatch (s : State) : (takeInput s).ridMismatch = s.ridMismatch := rfl
@[simp] theorem takeInput_resKind (s : State) : (takeInput s).resKind = s.resKind := rfl
@[simp] theorem takeInput_resValid (s : State) : (takeInput s).resValid = s.resValid := rfl
@[simp] theorem takeInput_txLast (s : State) : (takeInput s).txLast = s.txLast := rfl
@[simp] theorem takeInput_envPcb (s : State) : (takeInput s).envPcb = s.envPcb := rfl
@[simp] theorem takeInput_envRid (s : State) : (takeInput s).envRid = s.envRid := rfl
@[simp] theorem takeInput_envInfo (s : State) : (takeInput s).envInfo = s.envInfo := rfl
@[simp] theorem takeInput_rscbBlocks (s : State) : (takeInput s).rscbBlocks = s.rscbBlocks := rfl
@[simp] theorem takeInput_rscbData (s : State) : (takeInput s).rscbData = s.rscbData := rfl
@[simp] theorem takeInput_invStop (s : State) : (takeInput s).invStop = s.invStop := rfl
@[simp] theorem takeInput_invTotal (s : State) : (takeInput s).invTotal = s.invTotal := rfl
@[simp] theorem takeInput_invCount (s : State) : (takeInput s).invCount = s.invCount := rfl
@[simp] theorem takeInput_invTags (s : State) : (takeInput s).invTags = s.invTags := rfl
@[simp] theorem takeInput_curData (s : State) : (takeInput s).curData = s.curData := rfl
@[simp] theorem takeInput_tx (s : State) : (takeInput s).tx = s.tx := rfl
@[simp] theorem takeInput_callerErrPast (s : State) : (takeInput s).callerErrPast = s.callerErrPast := rfl
@[simp] theorem takeInput_pc (s : State) : (takeInput s).pc = s.pc := rfl
@[simp] theorem takeInput_port (s : State) : (takeInput s).port = s.port.drop 1 := rfl
@[simp] theorem takeInput_cfg (s : State) : (takeInput s).cfg = s.cfg := rfl

/-! ### `takeOp` -/

@[simp] theorem takeOp_seq (s : State) : (takeOp s).seq = s.seq := rfl
@[simp] theorem takeOp_await (s : State) : (takeOp s).await = s.await := rfl
@[simp] theorem takeOp_pendKind (s : State) : (takeOp s).pendKind = s.pendKind := rfl
@[simp] theorem takeOp_pendCmd (s : State) : (takeOp s).pendCmd = s.pendCmd := rfl
@[simp] theorem takeOp_pendSeq (s : State) : (takeOp s).pendSeq = s.pendSeq := rfl
@[simp] theorem takeOp_pendRid (s : State) : (takeOp s).pendRid = s.pendRid := rfl
@[simp] theorem takeOp_needResync (s : State) : (takeOp s).needResync = s.needResync := rfl
@[simp] theorem takeOp_callerErr (s : State) : (takeOp s).callerErr = s.callerErr := rfl
@[simp] theorem takeOp_rxbuf (s : State) : (takeOp s).rxbuf = s.rxbuf := rfl
@[simp] theorem takeOp_curPos (s : State) : (takeOp s).curPos = s.curPos := rfl
@[simp] theorem takeOp_status (s : State) : (takeOp s).status = s.status := rfl
@[simp] theorem takeOp_seqMismatch (s : State) : (takeOp s).seqMismatch = s.seqMismatch := rfl
@[simp] theorem takeOp_ridMismatch (s : State) : (takeOp s).ridMismatch = s.ridMismatch := rfl
@[simp] theorem takeOp_resKind (s : State) : (takeOp s).resKind = s.resKind := rfl
@[simp] theorem takeOp_resValid (s : State) : (takeOp s).resValid = s.resValid := rfl
@[simp] theorem takeOp_txLast (s : State) : (takeOp s).txLast = s.txLast := rfl
@[simp] theorem takeOp_envPcb (s : State) : (takeOp s).envPcb = s.envPcb := rfl
@[simp] theorem takeOp_envRid (s : State) : (takeOp s).envRid = s.envRid := rfl
@[simp] theorem takeOp_envInfo (s : State) : (takeOp s).envInfo = s.envInfo := rfl
@[simp] theorem takeOp_rscbBlocks (s : State) : (takeOp s).rscbBlocks = s.rscbBlocks := rfl
@[simp] theorem takeOp_rscbData (s : State) : (takeOp s).rscbData = s.rscbData := rfl
@[simp] theorem takeOp_invStop (s : State) : (takeOp s).invStop = s.invStop := rfl
@[simp] theorem takeOp_invTotal (s : State) : (takeOp s).invTotal = s.invTotal := rfl
@[simp] theorem takeOp_invCount (s : State) : (takeOp s).invCount = s.invCount := rfl
@[simp] theorem takeOp_invTags (s : State) : (takeOp s).invTags = s.invTags := rfl
@[simp] theorem takeOp_curData (s : State) : (takeOp s).curData = s.curData := rfl
@[simp] theorem takeOp_tx (s : State) : (takeOp s).tx = s.tx := rfl
@[simp] theorem takeOp_callerErrPast (s : State) : (takeOp s).callerErrPast = s.callerErrPast := rfl
@[simp] theorem takeOp_pc (s : State) : (takeOp s).pc = s.pc + 1 := rfl
@[simp] theorem takeOp_port (s : State) : (takeOp s).port = s.port.drop 1 := rfl
@[simp] theorem takeOp_cfg (s : State) : (takeOp s).cfg = s.cfg := rfl

/-! ### `putFirst` -/

@[simp] theorem putFirst_seq (w : Bytes) (s : State) : (putFirst w s).seq = s.seq := rfl
@[simp] theorem putFirst_await (w : Bytes) (s : State) : (putFirst w s).await = s.await := rfl
@[simp] theorem putFirst_pendKind (w : Bytes) (s : State) : (putFirst w s).pendKind = s.pendKind := rfl
@[simp] theorem putFirst_pendCmd (w : Bytes) (s : State) : (putFirst w s).pendCmd = s.pendCmd := rfl
@[simp] theorem putFirst_pendSeq (w : Bytes) (s : State) : (putFirst w s).pendSeq = s.pendSeq := rfl
@[simp] theorem putFirst_pendRid (w : Bytes) (s : State) : (putFirst w s).pendRid = s.pendRid := rfl
@[simp] theorem putFirst_needResync (w : Bytes) (s : State) : (putFirst w s).needResync = s.needResync := rfl
@[simp] theorem putFirst_callerErr (w : Bytes) (s : State) : (putFirst w s).callerErr = s.callerErr := rfl
@[simp] theorem putFirst_rxbuf (w : Bytes) (s : State) : (putFirst w s).rxbuf = s.rxbuf := rfl
@[simp] theorem putFirst_curPos (w : Bytes) (s : State) : (putFirst w s).curPos = s.curPos := rfl
@[simp] theorem putFirst_status (w : Bytes) (s : State) : (putFirst w s).status = s.status := rfl
@[simp] theorem putFirst_seqMismatch (w : Bytes) (s : State) : (putFirst w s).seqMismatch = s.seqMismatch := rfl
@[simp] theorem putFirst_ridMismatch (w : Bytes) (s : State) : (putFirst w s).ridMismatch = s.ridMismatch := rfl
@[simp] theorem putFirst_resKind (w : Bytes) (s : State) : (putFirst w s).resKind = s.resKind := rfl
@[simp] theorem putFirst_resValid (w : Bytes) (s : State) : (putFirst w s).resValid = s.resValid := rfl
@[simp] theorem putFirst_txLast (w : Bytes) (s : State) : (putFirst w s).txLast = s.txLast := rfl
@[simp] theorem putFirst_envPcb (w : Bytes) (s : State) : (putFirst w s).envPcb = s.envPcb := rfl
@[simp] theorem putFirst_envRid (w : Bytes) (s : State) : (putFirst w s).envRid = s.envRid := rfl
@[simp] theorem putFirst_envInfo (w : Bytes) (s : State) : (putFirst w s).envInfo = s.envInfo := rfl
@[simp] theorem putFirst_rscbBlocks (w : Bytes) (s : State) : (putFirst w s).rscbBlocks = s.rscbBlocks := rfl
@[simp] theorem putFirst_rscbData (w : Bytes) (s : State) : (putFirst w s).rscbData = s.rscbData := rfl
@[simp] theorem putFirst_invStop (w : Bytes) (s : State) : (putFirst w s).invStop = s.invStop := rfl
@[simp] theorem putFirst_invTotal (w : Bytes) (s : State) : (putFirst w s).invTotal = s.invTotal := rfl
@[simp] theorem putFirst_invCount (w : Bytes) (s : State) : (putFirst w s).invCount = s.invCount := rfl
@[simp] theorem putFirst_invTags (w : Bytes) (s : State) : (putFirst w s).invTags = s.invTags := rfl
@[simp] theorem putFirst_curData (w : Bytes) (s : State) : (putFirst w s).curData = s.curData := rfl
@[simp] theorem putFirst_tx (w : Bytes) (s : State) : (putFirst w s).tx = s.tx := rfl
@[simp] theorem putFirst_callerErrPast (w : Bytes) (s : State) : (putFirst w s).callerErrPast = s.callerErrPast := rfl
@[simp] theorem putFirst_pc (w : Bytes) (s : State) : (putFirst w s).pc = s.pc := rfl
@[simp] theorem putFirst_port (w : Bytes) (s : State) : (putFirst w s).port = .op w :: s.port := rfl
@[simp] theorem putFirst_cfg (w : Bytes) (s : State) : (putFirst w s).cfg = s.cfg := rfl

/-! ### `resyncExchange`: the fields it leaves alone, and the three it may write -/

@[simp] theorem resyncExchange_seq (rid : Byte) (s : State) : (resyncExchange rid s).seq = s.seq := by
  unfold resyncExchange; split <;> rfl
@[simp] theorem resyncExchange_pendCmd (rid : Byte) (s : State) : (resyncExchange rid s).pendCmd = s.pendCmd := by
  unfold resyncExchange; split <;> rfl
@[simp] theorem resyncExchange_pendSeq (rid : Byte) (s : State) : (resyncExchange rid s).pendSeq = s.pendSeq := by
  unfold resyncExchange; split <;> rfl
@[simp] theorem resyncExchange_needResync (rid : Byte) (s : State) : (resyncExchange rid s).needResync = s.needResync := by
  unfold resyncExchange; split <;> rfl
@[simp] theorem resyncExchange_callerErr (rid : Byte) (s : State) : (resyncExchange rid s).callerErr = s.callerErr := by
  unfold resyncExchange; split <;> rfl
@[simp] theorem resyncExchange_rxbuf (rid : Byte) (s : State) : (resyncExchange rid s).rxbuf = s.rxbuf := by
  unfold resyncExchange; split <;> rfl
@[simp] theorem resyncExchange_curPos (rid : Byte) (s : State) : (resyncExchange rid s).curPos = s.curPos := by
  unfold resyncExchange; split <;> rfl
@[simp] theorem resyncExchange_status (rid : Byte) (s : State) : (resyncExchange rid s).status = s.status := by
  unfold resyncExchange; split <;> rfl
@[simp] theorem resyncExchange_seqMismatch (rid : Byte) (s : State) : (resyncExchange rid s).seqMismatch = s.seqMismatch := by
  unfold resyncExchange; split <;> rfl
@[simp] theorem resyncExchange_ridMismatch (rid : Byte) (s : State) : (resyncExchange rid s).ridMismatch = s.ridMismatch := by
  unfold resyncExchange; split <;> rfl
@[simp] theorem resyncExchange_resKind (rid : Byte) (s : State) : (resyncExchange rid s).resKind = s.resKind := by
  unfold resyncExchange; split <;> rfl
@[simp] theorem resyncExchange_resValid (rid : Byte) (s : State) : (resyncExchange rid s).resValid = s.resValid := by
  unfold resyncExchange; split <;> rfl
@[simp] theorem resyncExchange_txLast (rid : Byte) (s : State) : (resyncExchange rid s).txLast = s.txLast := by
  unfold resyncExchange; split <;> rfl
@[simp] theorem resyncExchange_envPcb (rid : Byte) (s : State) : (resyncExchange rid s).envPcb = s.envPcb := by
  unfold resyncExchange; split <;> rfl
@[simp] theorem resyncExchange_envRid (rid : Byte) (s : State) : (resyncExchange rid s).envRid = s.envRid := by
  unfold resyncExchange; split <;> rfl
@[simp] theorem resyncExchange_envInfo (rid : Byte) (s : State) : (resyncExchange rid s).envInfo = s.envInfo := by
  unfold resyncExchange; split <;> rfl
@[simp] theorem resyncExchange_rscbBlocks (rid : Byte) (s : State) : (resyncExchange rid s).rscbBlocks = s.rscbBlocks := by
  unfold resyncExchange; split <;> rfl
@[simp] theorem resyncExchange_rscbData (rid : Byte) (s : State) : (resyncExchange rid s).rscbData = s.rscbData := by
  unfold resyncExchange; split <;> rfl
@[simp] theorem resyncExchange_invStop (rid : Byte) (s : State) : (resyncExchange rid s).invStop = s.invStop := by
  unfold resyncExchange; split <;> rfl
@[simp] theorem resyncExchange_invTotal (rid : Byte) (s : State) : (resyncExchange rid s).invTotal = s.invTotal := by
  unfold resyncExchange; split <;> rfl
@[simp] theorem resyncExchange_invCount (rid : Byte) (s : State) : (resyncExchange rid s).invCount = s.invCount := by
  unfold resyncExchange; split <;> rfl
@[simp] theorem resyncExchange_invTags (rid : Byte) (s : State) : (resyncExchange rid s).invTags = s.invTags := by
  unfold resyncExchange; split <;> rfl
@[simp] theorem resyncExchange_curData (rid : Byte) (s : State) : (resyncExchange rid s).curData = s.curData := by
  unfold resyncExchange; split <;> rfl
@[simp] theorem resyncExchange_tx (rid : Byte) (s : State) : (resyncExchange rid s).tx = s.tx := by
  unfold resyncExchange; split <;> rfl
@[simp] theorem resyncExchange_callerErrPast (rid : Byte) (s : State) : (resyncExchange rid s).callerErrPast = s.callerErrPast := by
  unfold resyncExchange; split <;> rfl
@[simp] theorem resyncExchange_pc (rid : Byte) (s : State) : (resyncExchange rid s).pc = s.pc := by
  unfold resyncExchange; split <;> rfl
@[simp] theorem resyncExchange_port (rid : Byte) (s : State) : (resyncExchange rid s).port = s.port := by
  unfold resyncExchange; split <;> rfl
@[simp] theorem resyncExchange_cfg (rid : Byte) (s : State) : (resyncExchange rid s).cfg = s.cfg := by
  unfold resyncExchange; split <;> rfl
@[simp] theorem resyncExchange_await (rid : Byte) (s : State) : (resyncExchange rid s).await = s.cfg.resyncAwaits := by
  unfold resyncExchange; split <;> simp_all
@[simp] theorem resyncExchange_pendKind (rid : Byte) (s : State) :
    (resyncExchange rid s).pendKind = if s.cfg.resyncAwaits then .sBlock else s.pendKind := by
  unfold resyncExchange; split <;> simp_all
@[simp] theorem resyncExchange_pendRid (rid : Byte) (s : State) :
    (resyncExchange rid s).pendRid = if s.cfg.resyncAwaits then rid else s.pendRid := by
  unfold resyncExchange; split <;> simp_all

/-! ### `writeResponse`: the fields no response writes -/

@[simp] theorem writeResponse_seq (r : Response) (s : State) : (writeResponse r s).seq = s.seq := by
  cases r <;> rfl
@[simp] theorem writeResponse_await (r : Response) (s : State) : (writeResponse r s).await = s.await := by
  cases r <;> rfl
@[simp] theorem writeResponse_pendKind (r : Response) (s : State) : (writeResponse r s).pendKind = s.pendKind := by
  cases r <;> rfl
@[simp] theorem writeResponse_pendCmd (r : Response) (s : State) : (writeResponse r s).pendCmd = s.pendCmd := by
  cases r <;> rfl
@[simp] theorem writeResponse_pendSeq (r : Response) (s : State) : (writeResponse r s).pendSeq = s.pendSeq := by
  cases r <;> rfl
@[simp] theorem writeResponse_pendRid (r : Response) (s : State) : (writeResponse r s).pendRid = s.pendRid := by
  cases r <;> rfl
@[simp] theorem writeResponse_needResync (r : Response) (s : State) : (writeResponse r s).needResync = s.needResync := by
  cases r <;> rfl
@[simp] theorem writeResponse_callerErr (r : Response) (s : State) : (writeResponse r s).callerErr = s.callerErr := by
  cases r <;> rfl
@[simp] theorem writeResponse_rxbuf (r : Response) (s : State) : (writeResponse r s).rxbuf = s.rxbuf := by
  cases r <;> rfl
@[simp] theorem writeResponse_curPos (r : Response) (s : State) : (writeResponse r s).curPos = s.curPos := by
  cases r <;> rfl
@[simp] theorem writeResponse_status (r : Response) (s : State) : (writeResponse r s).status = s.status := by
  cases r <;> rfl
@[simp] theorem writeResponse_seqMismatch (r : Response) (s : State) : (writeResponse r s).seqMismatch = s.seqMismatch := by
  cases r <;> rfl
@[simp] theorem writeResponse_ridMismatch (r : Response) (s : State) : (writeResponse r s).ridMismatch = s.ridMismatch := by
  cases r <;> rfl
@[simp] theorem writeResponse_resKind (r : Response) (s : State) : (writeResponse r s).resKind = s.resKind := by
  cases r <;> rfl
@[simp] theorem writeResponse_resValid (r : Response) (s : State) : (writeResponse r s).resValid = s.resValid := by
  cases r <;> rfl
@[simp] theorem writeResponse_txLast (r : Response) (s : State) : (writeResponse r s).txLast = s.txLast := by
  cases r <;> rfl
@[simp] theorem writeResponse_envPcb (r : Response) (s : State) : (writeResponse r s).envPcb = s.envPcb := by
  cases r <;> rfl
@[simp] theorem writeResponse_envRid (r : Response) (s : State) : (writeResponse r s).envRid = s.envRid := by
  cases r <;> rfl
@[simp] theorem writeResponse_envInfo (r : Response) (s : State) : (writeResponse r s).envInfo = s.envInfo := by
  cases r <;> rfl
@[simp] theorem writeResponse_curData (r : Response) (s : State) : (writeResponse r s).curData = s.curData := by
  cases r <;> rfl
@[simp] theorem writeResponse_tx (r : Response) (s : State) : (writeResponse r s).tx = s.tx := by
  cases r <;> rfl
@[simp] theorem writeResponse_callerErrPast (r : Response) (s : State) : (writeResponse r s).callerErrPast = s.callerErrPast := by
  cases r <;> rfl
@[simp] theorem writeResponse_pc (r : Response) (s : State) : (writeResponse r s).pc = s.pc := by
  cases r <;> rfl
@[simp] theorem writeResponse_port (r : Response) (s : State) : (writeResponse r s).port = s.port := by
  cases r <;> rfl
@[simp] theorem writeResponse_cfg (r : Response) (s : State) : (writeResponse r s).cfg = s.cfg := by
  cases r <;> rfl

/-! ### reset -/

@[simp] theorem resetWith_seq (c : Config.Params) : (State.resetWith c).seq = 0 := rfl
@[simp] theorem resetWith_await (c : Config.Params) : (State.resetWith c).await = false := rfl
@[simp] theorem resetWith_pendKind (c : Config.Params) : (State.resetWith c).pendKind = .iBlock := rfl
@[simp] theorem resetWith_pendCmd (c : Config.Params) : (State.resetWith c).pendCmd = 0x00 := rfl
@[simp] theorem resetWith_pendSeq (c : Config.Params) : (State.resetWith c).pendSeq = false := rfl
@[simp] theorem resetWith_pendRid (c : Config.Params) : (State.resetWith c).pendRid = 0x00 := rfl
@[simp] theorem resetWith_needResync (c : Config.Params) : (State.resetWith c).needResync = false := rfl
@[simp] theorem resetWith_callerErr (c : Config.Params) : (State.resetWith c).callerErr = false := rfl
@[simp] theorem resetWith_rxbuf (c : Config.Params) : (State.resetWith c).rxbuf = [] := rfl
@[simp] theorem resetWith_curPos (c : Config.Params) : (State.resetWith c).curPos = 0 := rfl
@[simp] theorem resetWith_status (c : Config.Params) : (State.resetWith c).status = ⟨.none, 0, 0⟩ := rfl
@[simp] theorem resetWith_seqMismatch (c : Config.Params) : (State.resetWith c).seqMismatch = false := rfl
@[simp] theorem resetWith_ridMismatch (c : Config.Params) : (State.resetWith c).ridMismatch = false := rfl
@[simp] theorem resetWith_resKind (c : Config.Params) : (State.resetWith c).resKind = .none := rfl
@[simp] theorem resetWith_resValid (c : Config.Params) : (State.resetWith c).resValid = false := rfl
@[simp] theorem resetWith_txLast (c : Config.Params) : (State.resetWith c).txLast = [] := rfl
@[simp] theorem resetWith_envPcb (c : Config.Params) : (State.resetWith c).envPcb = 0x00 := rfl
@[simp] theorem resetWith_envRid (c : Config.Params) : (State.resetWith c).envRid = 0x00 := rfl
@[simp] theorem resetWith_envInfo (c : Config.Params) : (State.resetWith c).envInfo = [] := rfl
@[simp] theorem resetWith_rscbBlocks (c : Config.Params) : (State.resetWith c).rscbBlocks = 0 := rfl
@[simp] theorem resetWith_rscbData (c : Config.Params) : (State.resetWith c).rscbData = [] := rfl
@[simp] theorem resetWith_invStop (c : Config.Params) : (State.resetWith c).invStop = 0 := rfl
@[simp] theorem resetWith_invTotal (c : Config.Params) : (State.resetWith c).invTotal = 0 := rfl
@[simp] theorem resetWith_invCount (c : Config.Params) : (State.resetWith c).invCount = 0 := rfl
@[simp] theorem resetWith_invTags (c : Config.Params) : (State.resetWith c).invTags = [] := rfl
@[simp] theorem resetWith_curData (c : Config.Params) : (State.resetWith c).curData = .bytes [] := rfl
@[simp] theorem resetWith_tx (c : Config.Params) : (State.resetWith c).tx = [] := rfl
@[simp] theorem resetWith_callerErrPast (c : Config.Params) : (State.resetWith c).callerErrPast = false := rfl
@[simp] theorem resetWith_pc (c : Config.Params) : (State.resetWith c).pc = 0 := rfl
@[simp] theorem resetWith_port (c : Config.Params) : (State.resetWith c).port = [] := rfl
@[simp] theorem resetWith_cfg (c : Config.Params) : (State.resetWith c).cfg = c := rfl

end Sys2Proof.Machine
end

