-- ==== Sys2Proof/Laws/Exec.lean ====
section
/-! SUPPORT. What each shared operation, each op and one step can do: one inversion lemma each ("if it answers `.next t`, then …"), to be cited instead of unfolding. -/

namespace Sys2Proof.Machine

open Sys2Proof.Config

/-- No reason has the kind "no error" (60_exceptions.md R137, R138). -/
@[simp] theorem Reason.kind_ne_none (r : Reason) : r.kind ≠ .none := by cases r <;> simp [Reason.kind]

@[simp] theorem raise_err_ne_none (r : Reason) (p : Nat) (s : State) :
    (raise r p s).status.err ≠ .none := r.kind_ne_none

/-- What sending a frame can do (20_memory.md R49). -/
theorem send_eq_next {f : Bytes} {s t : State} :
    send f s = .next t ↔
      within s.cfg.txFrameMax f.length = true ∧ t = okWith .tx (emitTx f s) := by
  unfold send
  split
  · next hw => exact ⟨fun h => by cases h; exact ⟨hw, rfl⟩, fun h => by rw [h.2]⟩
  · next hw => exact ⟨fun h => (by cases h), fun h => absurd h.1 hw⟩

theorem send_ne_fault (f : Bytes) (s : State) (e : Fault) : send f s ≠ .fault e := by
  unfold send; split <;> simp

theorem send_eq_refused {f : Bytes} {s : State} {r : Refusal} :
    send f s = .refused r ↔ within s.cfg.txFrameMax f.length = false ∧ r = .txFrameTooLong := by
  unfold send
  split
  · next hw => exact ⟨fun h => (by cases h), fun h => (by simp_all)⟩
  · next hw => exact ⟨fun h => by cases h; exact ⟨by simpa using hw, rfl⟩, fun h => by rw [h.2]⟩

/-- When an I-Block build meets no error (40_frame_codec.md R87). -/
theorem buildError_eq_none {info : Bytes} {s : State} :
    buildError info s = none ↔
      ∃ cmd rest, info = cmd :: rest ∧ cmd ∈ s.cfg.validCmds ∧ s.needResync = false ∧
        seqLegal s.seq = true := by
  cases info with
  | nil => simp [buildError]
  | cons cmd rest =>
    simp only [buildError, List.cons.injEq]
    by_cases h1 : cmd ∈ s.cfg.validCmds <;> by_cases h2 : s.needResync <;>
      by_cases h3 : seqLegal s.seq <;> simp_all

/-- SEQ is legal exactly when it is 0 or 1 (10_state.md R20). -/
theorem seqLegal_iff {v : Byte} : seqLegal v = true ↔ v = 0 ∨ v = 1 := by simp [seqLegal]

/-- The state a successful I-Block build leaves (40_frame_codec.md R87). -/
def built (rid : Byte) (info : Bytes) (s : State) : State :=
  okWith .tx (emitTx (requestFrame rid info s) (openExchange rid info s))

/-- What the build core can do (40_frame_codec.md R87). -/
theorem buildCore_eq_next {rid : Byte} {info : Bytes} {s t : State} :
    buildCore rid info s = .next t ↔
      (∃ r, buildError info s = some r ∧ t = raise r 0 s) ∨
      (buildError info s = none ∧
        within s.cfg.txFrameMax (requestFrame rid info s).length = true ∧
        t = built rid info s) := by
  unfold buildCore built
  cases h : buildError info s with
  | some r =>
    simp only [Option.some.injEq, reduceCtorEq, false_and, or_false, Host.Outcome.next.injEq]
    exact ⟨fun e => ⟨r, rfl, e.symm⟩, fun ⟨_, e, e'⟩ => by rw [e', e]⟩
  | none => simp [send_eq_next]

theorem buildCore_ne_fault (rid : Byte) (info : Bytes) (s : State) (e : Fault) :
    buildCore rid info s ≠ .fault e := by
  unfold buildCore; split
  · simp
  · exact send_ne_fault _ _ _

/-- When the build core refuses: the build meets no error and its frame is past TX_FRAME_MAX (40_frame_codec.md R88; log 7). -/
theorem buildCore_eq_refused {rid : Byte} {info : Bytes} {s : State} {r : Refusal} :
    buildCore rid info s = .refused r ↔
      buildError info s = none ∧
        within s.cfg.txFrameMax (requestFrame rid info s).length = false ∧ r = .txFrameTooLong := by
  unfold buildCore
  cases buildError info s <;> simp [send_eq_refused]

/-- What every I-Block build op can do: raise, or open the exchange with its information field (R87). -/
theorem build_next {i : Instr} (hi : isBuild i = true) {s t : State} (h : exec i s = .next t) :
    (∃ r, t = raise r 0 s) ∨
      ∃ rid info, buildError info s = none ∧
        within s.cfg.txFrameMax (requestFrame rid info s).length = true ∧ t = built rid info s := by
  have core : ∀ rid info, buildCore rid info s = .next t → (∃ r, t = raise r 0 s) ∨
      ∃ rid info, buildError info s = none ∧
        within s.cfg.txFrameMax (requestFrame rid info s).length = true ∧ t = built rid info s := by
    intro rid info h
    obtain ⟨r, -, rfl⟩ | h := buildCore_eq_next.mp h
    · exact .inl ⟨r, rfl⟩
    · exact .inr ⟨rid, info, h⟩
  cases i with
  | buildReq rid info => exact core _ _ h
  | encRscb rid b1 count =>
    simp only [exec, execEncRscb] at h
    split at h
    · cases h; exact .inl ⟨_, rfl⟩
    · exact core _ _ h
  | encInv rid opt ant stop =>
    simp only [exec, execEncInv] at h
    split at h
    · cases h; exact .inl ⟨_, rfl⟩
    · split at h
      · cases h; exact .inl ⟨_, rfl⟩
      · split at h
        · cases h; exact .inl ⟨_, rfl⟩
        · exact core _ _ h
  | _ => simp [isBuild] at hi

/-- The state a RESYNC leaves (41_sequencer.md R94). -/
def resynced (rid : Byte) (s : State) : State :=
  okWith .tx (emitTx (resyncFrame rid s)
    (clearRx (resyncExchange rid { s with seq := 0, needResync := false })))

/-- What RESYNC can do (41_sequencer.md R94). -/
theorem resync_next {rid : Byte} {s t : State} :
    exec (.resync rid) s = .next t ↔
      within s.cfg.txFrameMax 2 = true ∧ t = resynced rid s := by
  simp only [exec, execResync, send_eq_next, resynced]
  simp [resyncFrame]

/-- When RESYNC is refused (70_reset_and_hazards.md R165(c); log 7). -/
theorem resync_refused {rid : Byte} {s : State} {r : Refusal} :
    exec (.resync rid) s = .refused r ↔
      within s.cfg.txFrameMax 2 = false ∧ r = .txFrameTooLong := by
  simp only [exec, execResync, send_eq_refused]
  simp [resyncFrame]

/-- What DECODE_RESP can do (43_response_decoders.md R113, R114). -/
theorem decodeResp_next {s t : State} :
    exec .decodeResp s = .next t ↔
      (∃ f, decodeResponse s = .error f ∧ t = raise f.reason f.pos (dropExchange s)) ∨
      ∃ r mm rid, decodeResponse s = .ok (r, mm, rid) ∧
        t = okWith r.kind (closeExchange mm rid (writeResponse r s)) := by
  simp only [exec, execDecodeResp]
  cases h : decodeResponse s with
  | error f => simp [eq_comm]
  | ok x =>
    obtain ⟨r, mm, rid⟩ := x
    simp only [reduceCtorEq, false_and, exists_false, false_or, Host.Outcome.next.injEq,
      Except.ok.injEq, Prod.mk.injEq]
    constructor
    · rintro rfl; exact ⟨r, mm, rid, ⟨rfl, rfl, rfl⟩, rfl⟩
    · rintro ⟨_, _, _, ⟨rfl, rfl, rfl⟩, rfl⟩; rfl

/-- What a CUR_RD op can do (44_cursor.md R132). -/
theorem curRead_next {α : Type} {rd : Reader α} {data : α → CurData} {s t : State} :
    curRead rd data s = .next t ↔
      (∃ f, rd (hostCursor s) = .error f ∧ t = raise f.reason f.pos s) ∨
      ∃ v c, rd (hostCursor s) = .ok (v, c) ∧
        t = okWith .cur { s with curPos := c.pos, curData := data v } := by
  unfold curRead
  cases h : rd (hostCursor s) with
  | error f => simp [eq_comm]
  | ok x => obtain ⟨v, c⟩ := x; simp [eq_comm]

/-- The op is a read at the host cursor. -/
def isCurRead : Instr → Bool
  | .curRd _ | .curRd8 | .curRd16 | .curRd32 => true
  | _ => false

/-- What every CUR_RD op can do: raise, or advance the cursor within RXBUF and write CUR_DATA. -/
theorem curRead_op_next {i : Instr} (hi : isCurRead i = true) {s t : State}
    (h : exec i s = .next t) :
    (∃ r p, t = raise r p s) ∨
      ∃ p d, s.curPos ≤ p ∧ p ≤ s.rxbuf.length ∧
        t = okWith .cur { s with curPos := p, curData := d } := by
  have key : ∀ {α : Type} (rd : Reader α) (data : α → CurData),
      (∀ {v c'}, rd (hostCursor s) = .ok (v, c') → c'.pos ≤ s.rxbuf.length ∧ s.curPos ≤ c'.pos) →
      curRead rd data s = .next t →
      (∃ r p, t = raise r p s) ∨ ∃ p d, s.curPos ≤ p ∧ p ≤ s.rxbuf.length ∧
        t = okWith .cur { s with curPos := p, curData := d } := by
    intro α rd data hrd h
    obtain ⟨f, -, rfl⟩ | ⟨v, c, hv, rfl⟩ := curRead_next.mp h
    · exact .inl ⟨_, _, rfl⟩
    · exact .inr ⟨c.pos, data v, (hrd hv).2, (hrd hv).1, rfl⟩
  cases i with
  | curRd n =>
    refine key _ _ (fun h => ?_) h
    obtain ⟨hl, -, rfl⟩ := readN_eq_ok.mp h
    exact ⟨hl, Nat.le_add_right _ _⟩
  | curRd8 =>
    refine key _ _ (fun h => ?_) h
    obtain ⟨hb, rfl⟩ := readU8_eq_ok.mp h
    exact ⟨(List.getElem?_eq_some_iff.mp hb).1, Nat.le_add_right _ _⟩
  | curRd16 =>
    refine key _ _ (fun h => ?_) h
    obtain ⟨_, _, -, hb, -, rfl⟩ := readU16_eq_ok.mp h
    exact ⟨(List.getElem?_eq_some_iff.mp hb).1, Nat.le_add_right _ _⟩
  | curRd32 =>
    refine key _ _ (fun h => ?_) h
    obtain ⟨_, _, _, _, -, -, -, hb, -, rfl⟩ := readU32_eq_ok.mp h
    exact ⟨(List.getElem?_eq_some_iff.mp hb).1, Nat.le_add_right _ _⟩
  | _ => exact Bool.noConfusion hi

/-- What CUR_SET can do (44_cursor.md R131). -/
theorem curSet_next {p : Word} {s t : State} :
    exec (.curSet p) s = .next t ↔
      (s.rxbuf.length < p.toNat ∧ t = raise .field s.curPos s) ∨
      (p.toNat ≤ s.rxbuf.length ∧ t = okWith .none { s with curPos := p.toNat }) := by
  simp only [exec, execCurSet]
  split
  · next hp =>
    constructor
    · intro h; cases h; exact .inl ⟨hp, rfl⟩
    · rintro (⟨-, rfl⟩ | ⟨h, -⟩)
      · rfl
      · exact absurd hp (by omega)
  · next hp =>
    constructor
    · intro h; cases h; exact .inr ⟨by omega, rfl⟩
    · rintro (⟨h, -⟩ | ⟨-, rfl⟩)
      · exact absurd h hp
      · rfl

/-- What DECODE_ENV can do (40_frame_codec.md R90). -/
theorem decodeEnv_next {s t : State} :
    exec .decodeEnv s = .next t ↔
      (∃ f, decodeEnvelope s.rxbuf = .error f ∧ t = raise f.reason f.pos s) ∨
      ∃ f, decodeEnvelope s.rxbuf = .ok f ∧
        t = okWith .env { s with envPcb := f.pcb, envRid := f.rid, envInfo := f.info } := by
  simp only [exec, execDecodeEnv]
  cases h : decodeEnvelope s.rxbuf <;> simp [eq_comm]

/-- What RX_PUSH can do (43_response_decoders.md R111). -/
theorem rxPush_next {bytes : Bytes} {s t : State} :
    exec (.rxPush bytes) s = .next t ↔
      within s.cfg.rxBufMax (s.rxbuf.length + bytes.length) = true ∧
        t = okWith .none { s with rxbuf := s.rxbuf ++ bytes } := by
  simp only [exec, execRxPush]
  split
  · next hw => exact ⟨fun h => by cases h; exact ⟨hw, rfl⟩, fun h => by rw [h.2]⟩
  · next hw => exact ⟨fun h => (by cases h), fun h => absurd h.1 hw⟩

/-- What TIMEOUT can do (41_sequencer.md R96). -/
theorem timeout_next {s t : State} :
    exec .timeout s = .next t ↔
      (s.await = true ∧ t = raise .timeout 0 (dropExchange s)) ∨
      (s.await = false ∧ t = okWith .none s) := by
  simp only [exec, execTimeout]
  cases s.await <;> simp [eq_comm]

/-- What an envelope decode needs (40_frame_codec.md R89). -/
theorem decodeEnvelope_eq_ok {b : Bytes} {f : Frame} :
    decodeEnvelope b = .ok f ↔ b = f.pcb :: f.rid :: f.info := by
  match b with
  | [] => simp [decodeEnvelope]
  | [x] => simp [decodeEnvelope]
  | p :: r :: i => obtain ⟨fp, fr, fi⟩ := f; simp [decodeEnvelope]

theorem decodeEnvelope_eq_error {b : Bytes} {f : Fail} :
    decodeEnvelope b = .error f ↔ b.length < 2 ∧ f = ⟨.envelope, b.length⟩ := by
  match b with
  | [] => simp [decodeEnvelope, eq_comm]
  | [x] => simp [decodeEnvelope, eq_comm]
  | p :: r :: i => simp [decodeEnvelope]

/-- What a successful DECODE_RESP has read: an outstanding exchange and a response of its kind (43_response_decoders.md R113). -/
theorem decodeResponse_eq_ok {s : State} {r : Response} {mm : Bool} {rid : Byte} :
    decodeResponse s = .ok (r, mm, rid) ↔
      s.await = true ∧ ∃ pcb info, s.rxbuf = pcb :: rid :: info ∧
        (s.pendKind = .sBlock ∧ decodeSBlock s ⟨pcb, rid, info⟩ = .ok (r, mm) ∨
          s.pendKind = .iBlock ∧ decodeIBlock s ⟨pcb, rid, info⟩ = .ok (r, mm)) := by
  unfold decodeResponse
  cases hA : s.await
  · simp
  · simp only [Bool.not_true, Bool.false_eq_true, if_false, true_and, except_bind_eq_ok]
    constructor
    · rintro ⟨⟨p, rd, info⟩, hf, ⟨r', mm'⟩, h, e⟩
      cases e
      refine ⟨p, info, decodeEnvelope_eq_ok.mp hf, ?_⟩
      cases hk : s.pendKind <;> simp_all
    · rintro ⟨p, info, hb, h⟩
      refine ⟨⟨p, rid, info⟩, decodeEnvelope_eq_ok.mpr hb, (r, mm), ?_, rfl⟩
      obtain ⟨hk, h⟩ | ⟨hk, h⟩ := h <;> simp [hk, h]

/-- What a successful I-Block decode has checked (43_response_decoders.md R113). -/
theorem decodeIBlock_eq_ok {s : State} {f : Frame} {r : Response} {mm : Bool} :
    decodeIBlock s f = .ok (r, mm) ↔
      pcbKind s.cfg f.pcb = .iBlock ∧ bit f.pcb 5 = false ∧
        (mm = true → s.cfg.seqCheck ≠ .error) ∧ mm = seqBitDiffers s.cfg s.pendSeq f.pcb ∧
        ∃ p, f.info = s.pendCmd :: p ∧ decodeParams s.cfg s.pendCmd p = .ok r := by
  unfold decodeIBlock
  split
  · simp_all
  · split
    · simp_all
    · split
      · simp_all
      · obtain ⟨fp, fr, fi⟩ := f
        cases fi with
        | nil => simp
        | cons cmd p =>
          dsimp only at *
          split
          · simp_all
          · simp only [except_map_eq_ok]
            constructor
            · rintro ⟨a, h, e⟩
              cases e
              refine ⟨by simp_all, by simp_all, by simp_all, rfl, p, by simp_all, h⟩
            · rintro ⟨-, -, -, rfl, q, e, h⟩
              simp only [List.cons.injEq] at e
              exact ⟨r, by rw [e.2]; exact h, rfl⟩

theorem decodeSBlock_eq_ok {s : State} {f : Frame} {r : Response} {mm : Bool} :
    decodeSBlock s f = .ok (r, mm) ↔
      pcbKind s.cfg f.pcb = .sBlock ∧ r = .resyncAck ∧ mm = false := by
  unfold decodeSBlock
  split <;> simp_all [eq_comm]

/-- What the command decoder can answer (43_response_decoders.md R113, R117). -/
theorem decodeParams_eq_ok {c : Params} {cmd : Byte} {p : Bytes} {r : Response} :
    decodeParams c cmd p = .ok r ↔
      (cmd = cmdRscb ∧ decRscb p 3 = .ok r) ∨
      (cmd = cmdInv ∧ decInv c.knownAirProtocols p 3 = .ok r) := by
  unfold decodeParams
  split
  · simp_all [cmdRscb, cmdInv]
  · split <;> simp_all

/-- Everything an op can do when it answers a next state, op by op: `cases` on it is the case analysis over all ops. -/
inductive Effect : Instr → State → State → Prop
  | opened (s : State) : Effect .openSession s (okWith .none (resetInput s))
  | resynced (rid : Byte) (s : State) (h : within s.cfg.txFrameMax 2 = true) :
      Effect (.resync rid) s (resynced rid s)
  | forced (v : Byte) (s : State) : Effect (.forceSeq v) s (okWith .none { s with seq := v })
  | timedOut (s : State) (h : s.await = true) :
      Effect .timeout s (raise .timeout 0 (dropExchange s))
  | notAwaiting (s : State) (h : s.await = false) : Effect .timeout s (okWith .none s)
  | abandoned (s : State) : Effect .abandon s (okWith .none
      (clearRx { s with needResync := s.needResync || s.await, await := false }))
  | built (i : Instr) (s : State) (rid : Byte) (info : Bytes) (hi : isBuild i = true)
      (h : buildError info s = none)
      (hw : within s.cfg.txFrameMax (requestFrame rid info s).length = true) :
      Effect i s (built rid info s)
  | notBuilt (i : Instr) (s : State) (r : Reason) (hi : isBuild i = true) :
      Effect i s (raise r 0 s)
  | pushed (bytes : Bytes) (s : State)
      (h : within s.cfg.rxBufMax (s.rxbuf.length + bytes.length) = true) :
      Effect (.rxPush bytes) s (okWith .none { s with rxbuf := s.rxbuf ++ bytes })
  | envRead (s : State) (f : Frame) (h : decodeEnvelope s.rxbuf = .ok f) :
      Effect .decodeEnv s
        (okWith .env { s with envPcb := f.pcb, envRid := f.rid, envInfo := f.info })
  | envFailed (s : State) (f : Fail) (h : decodeEnvelope s.rxbuf = .error f) :
      Effect .decodeEnv s (raise f.reason f.pos s)
  | respRead (s : State) (r : Response) (mm : Bool) (rid : Byte)
      (h : decodeResponse s = .ok (r, mm, rid)) :
      Effect .decodeResp s (okWith r.kind (closeExchange mm rid (writeResponse r s)))
  | respFailed (s : State) (f : Fail) (h : decodeResponse s = .error f) :
      Effect .decodeResp s (raise f.reason f.pos (dropExchange s))
  | curSet (p : Word) (s : State) (h : p.toNat ≤ s.rxbuf.length) :
      Effect (.curSet p) s (okWith .none { s with curPos := p.toNat })
  | curSetFailed (p : Word) (s : State) (h : s.rxbuf.length < p.toNat) :
      Effect (.curSet p) s (raise .field s.curPos s)
  | curRead (i : Instr) (s : State) (p : Nat) (d : CurData) (hi : isCurRead i = true)
      (hl : s.curPos ≤ p) (hp : p ≤ s.rxbuf.length) :
      Effect i s (okWith .cur { s with curPos := p, curData := d })
  | curFailed (i : Instr) (s : State) (r : Reason) (p : Nat) (hi : isCurRead i = true) :
      Effect i s (raise r p s)

/-- What every op can do. -/
theorem exec_effect {i : Instr} {s t : State} (h : exec i s = .next t) : Effect i s t := by
  have cur : isCurRead i = true → Effect i s t := fun hi => by
    obtain ⟨r, p, rfl⟩ | ⟨p, d, hl, hp, rfl⟩ := curRead_op_next hi h
    · exact .curFailed i s r p hi
    · exact .curRead i s p d hi hl hp
  have bld : isBuild i = true → Effect i s t := fun hi => by
    obtain ⟨r, rfl⟩ | ⟨rid, info, he, hw, rfl⟩ := build_next hi h
    · exact .notBuilt i s r hi
    · exact .built i s rid info hi he hw
  cases i with
  | openSession => cases h; exact .opened s
  | resync rid => obtain ⟨hw, rfl⟩ := resync_next.mp h; exact .resynced rid s hw
  | buildReq rid info => exact bld rfl
  | encRscb rid b1 count => exact bld rfl
  | encInv rid opt ant stop => exact bld rfl
  | rxPush bytes => obtain ⟨hw, rfl⟩ := rxPush_next.mp h; exact .pushed bytes s hw
  | decodeEnv =>
    obtain ⟨f, hf, rfl⟩ | ⟨f, hf, rfl⟩ := decodeEnv_next.mp h
    · exact .envFailed s f hf
    · exact .envRead s f hf
  | decodeResp =>
    obtain ⟨f, hf, rfl⟩ | ⟨r, mm, rid, hr, rfl⟩ := decodeResp_next.mp h
    · exact .respFailed s f hf
    · exact .respRead s r mm rid hr
  | timeout =>
    obtain ⟨ha, rfl⟩ | ⟨ha, rfl⟩ := timeout_next.mp h
    · exact .timedOut s ha
    · exact .notAwaiting s ha
  | abandon => cases h; exact .abandoned s
  | forceSeq v => cases h; exact .forced v s
  | curSet p =>
    obtain ⟨hp, rfl⟩ | ⟨hp, rfl⟩ := curSet_next.mp h
    · exact .curSetFailed p s hp
    · exact .curSet p s hp
  | curRd n => exact cur rfl
  | curRd8 => exact cur rfl
  | curRd16 => exact cur rfl
  | curRd32 => exact cur rfl

/-- No op writes the configuration (10_state.md R43). -/
theorem exec_cfg {i : Instr} {s t : State} (h : exec i s = .next t) : t.cfg = s.cfg := by
  cases exec_effect h with
  | respRead _ r mm rid _ => cases r <;> rfl
  | resynced rid _ h => simp only [Machine.resynced, resyncExchange]; split <;> rfl
  | _ => rfl

/-- The run is faulty after a reset exactly when it was before (70_reset_and_hazards.md R165(b); log 20). -/
@[simp] theorem runFaulty_resetInput (s : State) : runFaulty (resetInput s) = runFaulty s := by
  simp only [runFaulty, resetInput_callerErr, resetInput_callerErrPast, Bool.false_or,
    Bool.or_comm s.callerErr]

/-- When the verdict on a run is the fault (log 9). -/
theorem endOfRun_eq_fault {s : State} : endOfRun s = .fault .callerError ↔ runFaulty s = true := by
  unfold endOfRun; split <;> simp_all

/-- A run of steps that ends in a next state, step by step. -/
theorem runSteps_succ {k : Nat} {s t : State} {log : List Status} :
    runSteps (k + 1) s = .next (t, log) ↔
      ∃ u rest, step s = .next u ∧ runSteps k u = .next (t, rest) ∧ log = u.status :: rest := by
  constructor
  · intro h
    unfold runSteps at h
    split at h
    · next u hu =>
      split at h
      · next hr => cases h; exact ⟨u, _, hu, hr, rfl⟩
      · cases h
      · cases h
    · cases h
    · cases h
  · rintro ⟨u, rest, hu, hr, rfl⟩
    unfold runSteps
    rw [hu]
    dsimp only
    rw [hr]

/-- What an op is not, for an op that belongs to one of the two families of `Effect` that cover several ops. -/
structure NoOther (i : Instr) : Prop where
  setsSeq    : setsSeq i = false
  resync     : clearsNeedResync i = false
  decodeResp : i ≠ .decodeResp
  timeout    : i ≠ .timeout
  abandon    : i ≠ .abandon
  opened     : i ≠ .openSession
  resynced   : ∀ rid, i ≠ .resync rid
  forced     : ∀ v, i ≠ .forceSeq v

theorem curRead_noOther {i : Instr} (h : isCurRead i = true) : isBuild i = false ∧ NoOther i := by
  refine ⟨?_, ?_, ?_, ?_, ?_, ?_, ?_, ?_, ?_⟩
  any_goals (cases i <;> first | rfl | exact Bool.noConfusion h)
  all_goals intros; rintro rfl; exact Bool.noConfusion h

theorem build_noOther {i : Instr} (h : isBuild i = true) : isCurRead i = false ∧ NoOther i := by
  refine ⟨?_, ?_, ?_, ?_, ?_, ?_, ?_, ?_, ?_⟩
  any_goals (cases i <;> first | rfl | exact Bool.noConfusion h)
  all_goals intros; rintro rfl; exact Bool.noConfusion h

/-! The errors an I-Block build raises, and its effect in the terms of 40_frame_codec.md R87. -/

theorem buildError_resync {cmd : Byte} {rest : Bytes} {s : State} (hc : cmd ∈ s.cfg.validCmds)
    (hn : s.needResync = true) : buildError (cmd :: rest) s = some .resyncRequired := by
  simp [buildError, hc, hn]

theorem buildError_badSeq {cmd : Byte} {rest : Bytes} {s : State} (hc : cmd ∈ s.cfg.validCmds)
    (hn : s.needResync = false) (h0 : s.seq ≠ 0) (h1 : s.seq ≠ 1) :
    buildError (cmd :: rest) s = some .badSeq := by
  have : seqLegal s.seq = false := by rw [← Bool.not_eq_true, seqLegal_iff]; tauto
  simp [buildError, hc, hn, this]

/-- SEQ flips to the other legal value, and the stamped bit is the value it had (R87). -/
theorem seq_flip {v : Byte} (h : v = 0 ∨ v = 1) :
    (BitVec.ofBool (!bit v 0)).setWidth 8 = v ^^^ 1 ∧ (BitVec.ofBool (bit v 0)).setWidth 8 = v := by
  rcases h with rfl | rfl <;> decide

/-- The reserved bits of `opt` are set exactly when its value is 16 or more (30_encoding.md R73). -/
theorem optReserved_eq (opt : Byte) : optReserved opt = decide (16 ≤ opt.toNat) := by
  revert opt; decide

/-! What DECODE_RESP reads, for a receive buffer written out (43_response_decoders.md R113). -/

theorem decodeResponse_notAwaiting {s : State} (h : s.await = false) :
    decodeResponse s = .error ⟨.unexpectedResponse, 0⟩ := by
  simp [decodeResponse, h]

theorem decodeResponse_short {s : State} (h : s.await = true) (hl : s.rxbuf.length < 2) :
    decodeResponse s = .error ⟨.envelope, s.rxbuf.length⟩ := by
  simp [decodeResponse, h, decodeEnvelope_eq_error.mpr ⟨hl, rfl⟩]

theorem decodeResponse_iBlock {s : State} {pcb rid : Byte} {info : Bytes} (h : s.await = true)
    (hk : s.pendKind = .iBlock) (hb : s.rxbuf = pcb :: rid :: info) :
    decodeResponse s = (decodeIBlock s ⟨pcb, rid, info⟩).map fun x => (x.1, x.2, rid) := by
  have : decodeEnvelope s.rxbuf = .ok ⟨pcb, rid, info⟩ := decodeEnvelope_eq_ok.mpr hb
  simp only [decodeResponse, h, this, hk]
  cases hx : decodeIBlock s ⟨pcb, rid, info⟩ <;> simp [Except.map, hx]

theorem decodeResponse_sBlock {s : State} {pcb rid : Byte} {info : Bytes} (h : s.await = true)
    (hk : s.pendKind = .sBlock) (hb : s.rxbuf = pcb :: rid :: info) :
    decodeResponse s = (decodeSBlock s ⟨pcb, rid, info⟩).map fun x => (x.1, x.2, rid) := by
  have : decodeEnvelope s.rxbuf = .ok ⟨pcb, rid, info⟩ := decodeEnvelope_eq_ok.mpr hb
  simp only [decodeResponse, h, this, hk]
  cases hx : decodeSBlock s ⟨pcb, rid, info⟩ <;> simp [Except.map, hx]

theorem seqBitDiffers_iff {c : Params} {q : Bool} {p : Byte} :
    seqBitDiffers c q p = true ↔ bit p 6 ≠ (q ^^ c.respSeqToggle) := by
  simp [seqBitDiffers]

end Sys2Proof.Machine
end

