-- ==== Sys2Proof/Laws/PerInstr.lean ====
section
/-! SUPPORT. A fact about every op as syntax, one lemma per constructor: the word the encoder writes has the length that R79 and R80 give it. -/

namespace Sys2Proof.Laws.EncodeLength

open Sys2Proof.Machine

/-- The encoder's word has the length the length rule of 30_encoding.md R80 reads from it. -/
def Statement (i : Instr) : Prop := WellFormed i → wordLength (encode i) = some (encode i).length

theorem openSession : Statement .openSession := fun _ => rfl

theorem resync (rid : Byte) : Statement (.resync rid) := fun _ => rfl

theorem buildReq (rid : Byte) (info : Bytes) : Statement (.buildReq rid info) := by
  intro h
  simp only [WellFormed, Instr.wellFormed, decide_eq_true_eq] at h
  change some (4 + (u16le _ _).toNat) = some (info.length + 4)
  rw [u16le_le16, BitVec.toNat_ofNat, Nat.mod_eq_of_lt (by omega), Nat.add_comm]

theorem encRscb (rid b1 count : Byte) : Statement (.encRscb rid b1 count) := fun _ => rfl

theorem encInv (rid opt : Byte) (ant : Option Bytes) (stop : Option StopTrigger) :
    Statement (.encInv rid opt ant stop) := by
  intro h
  simp only [WellFormed, Instr.wellFormed, Bool.and_eq_true, beq_iff_eq, decide_eq_true_eq] at h
  obtain ⟨⟨h0, hl⟩, h2⟩ := h
  cases ant <;> cases stop <;>
    simp_all [wordLength, encode, encodeAnt, encodeStop, lengthH4, ← h0, ← h2] <;> omega

theorem rxPush (bytes : Bytes) : Statement (.rxPush bytes) := by
  intro h
  simp only [WellFormed, Instr.wellFormed, decide_eq_true_eq] at h
  change some (3 + (u16le _ _).toNat) = some (bytes.length + 3)
  rw [u16le_le16, BitVec.toNat_ofNat, Nat.mod_eq_of_lt (by omega), Nat.add_comm]

theorem decodeEnv : Statement .decodeEnv := fun _ => rfl

theorem decodeResp : Statement .decodeResp := fun _ => rfl

theorem timeout : Statement .timeout := fun _ => rfl

theorem abandon : Statement .abandon := fun _ => rfl

theorem forceSeq (v : Byte) : Statement (.forceSeq v) := fun _ => rfl

theorem curSet (p : Word) : Statement (.curSet p) := fun _ => rfl

theorem curRd (n : Half) : Statement (.curRd n) := fun _ => rfl

theorem curRd8 : Statement .curRd8 := fun _ => rfl

theorem curRd16 : Statement .curRd16 := fun _ => rfl

theorem curRd32 : Statement .curRd32 := fun _ => rfl

end Sys2Proof.Laws.EncodeLength
end

