-- ==== Sys2Proof/Laws/Step.lean ====
section
/-! SUPPORT. What fetching and one step can do, by what is next on the port (00_scope.md R16; 70_reset_and_hazards.md R153, R155). -/

namespace Sys2Proof.Machine

theorem fetch_badConfig {s : State} (h : configOk s.cfg = false) : fetch s = .badConfig := by
  simp [fetch, h]

theorem fetch_idle {s : State} (h : configOk s.cfg = true) (hp : s.port = []) :
    fetch s = .idle := by
  simp [fetch, h, hp]

theorem fetch_reset {s : State} {rest : List Input} (h : configOk s.cfg = true)
    (hp : s.port = .reset :: rest) : fetch s = .reset := by
  simp [fetch, h, hp]

theorem fetch_ok {s : State} {w : Bytes} {rest : List Input} {i : Instr}
    (h : configOk s.cfg = true) (hp : s.port = .op w :: rest) (hd : decode w = .ok i) :
    fetch s = .op i := by
  simp [fetch, h, hp, hd]

theorem fetch_malformed {s : State} {w : Bytes} {rest : List Input} {e : DecodeError}
    (h : configOk s.cfg = true) (hp : s.port = .op w :: rest) (hd : decode w = .error e) :
    fetch s = .malformed (rejectReason e) := by
  simp [fetch, h, hp, hd]

/-- Taking an op word, with the port as it was. -/
theorem takeOp_eq {s : State} {x : Input} {rest : List Input} (hp : s.port = x :: rest) :
    takeOp s = { s with port := rest, pc := s.pc + 1 } := by
  simp [takeOp, takeInput, hp]

theorem takeInput_eq {s : State} {x : Input} {rest : List Input} (hp : s.port = x :: rest) :
    takeInput s = { s with port := rest } := by
  simp [takeInput, hp]

/-- What a step that answers a next state has done. -/
theorem step_next {s t : State} (h : step s = .next t) :
    configOk s.cfg = true ∧
      ((s.port = [] ∧ t = s) ∨
       (∃ rest, s.port = .reset :: rest ∧ t = resetInput (takeInput s)) ∨
       (∃ w rest e, s.port = .op w :: rest ∧ decode w = .error e ∧
          t = raise (rejectReason e) 0 (takeOp s)) ∨
       (∃ w rest i, s.port = .op w :: rest ∧ decode w = .ok i ∧ exec i (takeOp s) = .next t)) := by
  cases hc : configOk s.cfg
  · simp [step, fetch_badConfig hc] at h
  · refine ⟨rfl, ?_⟩
    match hp : s.port with
    | [] => simp only [step, fetch_idle hc hp] at h; cases h; exact .inl ⟨rfl, rfl⟩
    | .reset :: rest =>
      simp only [step, fetch_reset hc hp] at h; cases h; exact .inr (.inl ⟨rest, rfl, rfl⟩)
    | .op w :: rest =>
      cases hd : decode w with
      | ok i =>
        simp only [step, fetch_ok hc hp hd] at h
        exact .inr (.inr (.inr ⟨w, rest, i, rfl, hd, h⟩))
      | error e =>
        simp only [step, fetch_malformed hc hp hd] at h
        cases h
        exact .inr (.inr (.inl ⟨w, rest, e, rfl, hd, rfl⟩))

/-- The classifier's form loses nothing: every function from PCBs to classes is some list of rows (log 2). -/
theorem classify_complete (f : Byte → Config.PcbKind) :
    ∃ rows, ∀ p, classify rows p = f p := by
  refine ⟨(List.ofFn fun k : Fin 256 => (⟨0xFF, BitVec.ofFin k, f (BitVec.ofFin k)⟩ : Config.PcbRule)), ?_⟩
  intro p
  have key : ∀ l : List (Fin 256), p.toFin ∈ l →
      classify (l.map fun k => ⟨0xFF, BitVec.ofFin k, f (BitVec.ofFin k)⟩) p = f p := by
    intro l hl
    induction l with
    | nil => simp at hl
    | cons k l ih =>
      have hm : p &&& 0xFF = p := by
        have : (0xFF : Byte) = BitVec.allOnes 8 := rfl
        rw [this, BitVec.and_allOnes]
      simp only [List.map_cons, classify, hm]
      split
      · next h => rw [h]
      · next h =>
        apply ih
        rcases List.mem_cons.mp hl with h' | h'
        · exact absurd (by rw [← h']) h
        · exact h'
  have := key (List.finRange 256) (List.mem_finRange _)
  rwa [List.ofFn_eq_map]

end Sys2Proof.Machine
end

