-- ==== Sys2Proof/Laws/Wire.lean ====
section
/-! SUPPORT. The decoders over the bytes the wire format lays out (30_encoding.md R75, R76): what a reader gives when the bytes ahead of the cursor are known, what it gives on a shortened buffer, and how many bytes it takes. -/

namespace Sys2Proof.Machine

/-- The bytes ahead of a cursor. -/
structure Ahead (c : Cursor) (rest : Bytes) : Prop where
  bound : c.pos ≤ c.buf.length
  drop  : c.buf.drop c.pos = rest

/-- A cursor moved on by `n`. -/
def Cursor.skip (c : Cursor) (n : Nat) : Cursor := { c with pos := c.pos + n }

@[simp] theorem Cursor.skip_buf (c : Cursor) (n : Nat) : (c.skip n).buf = c.buf := rfl
@[simp] theorem Cursor.skip_base (c : Cursor) (n : Nat) : (c.skip n).base = c.base := rfl
@[simp] theorem Cursor.skip_pos (c : Cursor) (n : Nat) : (c.skip n).pos = c.pos + n := rfl
@[simp] theorem Cursor.skip_zero (c : Cursor) : c.skip 0 = c := rfl
theorem Cursor.skip_skip (c : Cursor) (m n : Nat) :
    (c.skip m).skip n = c.skip (m + n) := by simp [Cursor.skip, Nat.add_assoc]

theorem ahead_of_append (pre rest : Bytes) (base : Nat) :
    Ahead ⟨pre ++ rest, base, pre.length⟩ rest := ⟨by simp, by simp⟩

theorem ahead_cursor (buf : Bytes) (base : Nat) : Ahead (cursor buf base) buf :=
  ⟨Nat.zero_le _, rfl⟩

theorem Ahead.length {c : Cursor} {rest : Bytes} (h : Ahead c rest) :
    c.buf.length = c.pos + rest.length := by
  have h1 := congrArg List.length h.drop
  have h2 := h.bound
  simp only [List.length_drop] at h1
  omega

theorem Ahead.skip {c : Cursor} {m rest : Bytes} (h : Ahead c (m ++ rest)) :
    Ahead (c.skip m.length) rest := by
  have hl := h.length
  simp only [List.length_append] at hl
  refine ⟨by simp; omega, ?_⟩
  simp only [Cursor.skip_buf, Cursor.skip_pos]
  rw [← List.drop_drop, h.drop, List.drop_left]

theorem Ahead.skip_one {c : Cursor} {b : Byte} {rest : Bytes} (h : Ahead c (b :: rest)) :
    Ahead (c.skip 1) rest := Ahead.skip (m := [b]) h

/-- `read_n` over known bytes (44_cursor.md R127). -/
theorem Ahead.readN {c : Cursor} {m rest : Bytes} (h : Ahead c (m ++ rest)) {n : Nat}
    (hn : m.length = n) : readN n c = .ok (m, c.skip n) := by
  have hl := h.length
  simp only [List.length_append] at hl
  exact readN_eq_ok.mpr ⟨by omega, by rw [slice, h.drop, ← hn, List.take_left], rfl⟩

theorem Ahead.getElem? {c : Cursor} {rest : Bytes} (h : Ahead c rest) (i : Nat) :
    c.buf[c.pos + i]? = rest[i]? := by rw [← h.drop, List.getElem?_drop]

/-- `read_u8` over a known byte (44_cursor.md R128). -/
theorem Ahead.readU8 {c : Cursor} {b : Byte} {rest : Bytes} (h : Ahead c (b :: rest)) :
    readU8 c = .ok (b, c.skip 1) := readU8_eq_ok.mpr ⟨h.getElem? 0, rfl⟩

/-- `read_u16` over known bytes (44_cursor.md R129). -/
theorem Ahead.readU16 {c : Cursor} {v : Half} {rest : Bytes} (h : Ahead c (le16 v ++ rest)) :
    readU16 c = .ok (v, c.skip 2) :=
  readU16_eq_ok.mpr ⟨_, _, h.getElem? 0, h.getElem? 1, (u16le_le16 v).symm, rfl⟩

/-- A field that is present when its flag says so and then read by its own reader. -/
theorem Ahead.readIf {α : Type} {c : Cursor} {o : Option α} {rd : Reader α} {n : Nat}
    (hn : o = none → n = 0) (h : ∀ v, o = some v → rd c = .ok (v, c.skip n)) :
    readIf o.isSome rd c = .ok (o, c.skip n) := by
  cases o with
  | none => simp [hn rfl]
  | some v => simp [h v rfl, Except.map]

/-- The flag bits of a record on the wire are its presence bits (30_encoding.md R76). -/
theorem tagFlags_bits (x : Byte) (t : TagRecord) :
    bit (tagFlags x t) 0 = t.ant.isSome ∧ bit (tagFlags x t) 1 = t.proto.isSome ∧
      bit (tagFlags x t) 2 = t.ttype.isSome ∧ bit (tagFlags x t) 3 = t.serial.isSome ∧
      bit (tagFlags x t) 4 = t.mem.isSome ∧ bit (tagFlags x t) 7 = false := by
  have key : ∀ (a b c d e : Bool) (x : Byte),
      bit (flagBit a 0 ||| flagBit b 1 ||| flagBit c 2 ||| flagBit d 3 ||| flagBit e 4
        ||| (x &&& 0x60)) 0 = a ∧
      bit (flagBit a 0 ||| flagBit b 1 ||| flagBit c 2 ||| flagBit d 3 ||| flagBit e 4
        ||| (x &&& 0x60)) 1 = b ∧
      bit (flagBit a 0 ||| flagBit b 1 ||| flagBit c 2 ||| flagBit d 3 ||| flagBit e 4
        ||| (x &&& 0x60)) 2 = c ∧
      bit (flagBit a 0 ||| flagBit b 1 ||| flagBit c 2 ||| flagBit d 3 ||| flagBit e 4
        ||| (x &&& 0x60)) 3 = d ∧
      bit (flagBit a 0 ||| flagBit b 1 ||| flagBit c 2 ||| flagBit d 3 ||| flagBit e 4
        ||| (x &&& 0x60)) 4 = e ∧
      bit (flagBit a 0 ||| flagBit b 1 ||| flagBit c 2 ||| flagBit d 3 ||| flagBit e 4
        ||| (x &&& 0x60)) 7 = false := by
    intro a b c d e x
    cases a <;> cases b <;> cases c <;> cases d <;> cases e <;> simp [bit, flagBit]
  exact key _ _ _ _ _ x

theorem tagOk_iff {known : List Byte} {t : TagRecord} :
    tagOk known t = true ↔
      (∀ v, t.proto = some v → known.contains v = true) ∧
      (∀ s, t.serial = some s → s.length ≤ 255) ∧
      (∀ m, t.mem = some m → m.data.length = ceil8 m.bits.toNat) := by
  obtain ⟨a, p, ty, s, m⟩ := t
  cases p <;> cases s <;> cases m <;> simp [tagOk, and_assoc]

/-- A record on the wire is decoded to itself (43_response_decoders.md R119). -/
theorem decTag_wire {known : List Byte} {x : Byte} {t : TagRecord} (ok : tagOk known t = true)
    {c : Cursor} {rest : Bytes} (h : Ahead c (tagWire x t ++ rest)) :
    decTag known c = .ok (t, c.skip (tagWire x t).length) := by
  obtain ⟨hp, hs, hm⟩ := tagOk_iff.mp ok
  obtain ⟨b0, b1, b2, b3, b4, b7⟩ := tagFlags_bits x t
  obtain ⟨ant, proto, ttype, serial, mem⟩ := t
  simp only [tagWire, List.cons_append, List.append_assoc] at h ⊢
  have a0 := h.skip_one
  have a1 := a0.skip
  have a2 := a1.skip
  have a3 := a2.skip
  have a4 := a3.skip
  refine decTag_eq_ok.mpr ⟨_, _, (c.skip 1).skip ant.toList.length,
    ((c.skip 1).skip ant.toList.length).skip proto.toList.length,
    (((c.skip 1).skip ant.toList.length).skip proto.toList.length).skip ttype.toList.length,
    ((((c.skip 1).skip ant.toList.length).skip proto.toList.length).skip ttype.toList.length).skip
      ((serial.map serialField).getD []).length, h.readU8, ?_, ?_, ?_, ?_, ?_, b7⟩
  · rw [b0]
    exact Ahead.readIf (n := ant.toList.length) (by rintro rfl; rfl)
      (by rintro v rfl; exact a0.readU8)
  · rw [b1]
    refine Ahead.readIf (n := proto.toList.length) (by rintro rfl; rfl) ?_
    rintro v rfl
    exact readProto_eq_ok.mpr ⟨a1.readU8, hp v rfl⟩
  · rw [b2]
    exact Ahead.readIf (n := ttype.toList.length) (by rintro rfl; rfl)
      (by rintro v rfl; exact a2.readU8)
  · rw [b3]
    refine Ahead.readIf (n := ((serial.map serialField).getD []).length) (by rintro rfl; rfl) ?_
    rintro s rfl
    have hl := hs s rfl
    have e : (BitVec.ofNat 8 s.length).toNat = s.length := by
      rw [BitVec.toNat_ofNat, Nat.mod_eq_of_lt (by omega)]
    have a5 : Ahead ((((c.skip 1).skip ant.toList.length).skip proto.toList.length).skip
        ttype.toList.length) (BitVec.ofNat 8 s.length :: (s ++ _)) := a3
    have a6 : Ahead _ (s ++ _) := a5.skip_one
    refine readSerial_eq_ok.mpr ⟨_, _, a5.readU8, ?_⟩
    rw [e, a6.readN rfl]
    simp only [serialField, Cursor.skip_skip, Option.map_some, Option.getD_some, List.length_cons]
    congr 3; omega
  · rw [b4]
    have e : ∀ n, (ant.toList ++ (proto.toList ++ (ttype.toList
        ++ ((serial.map serialField).getD [] ++ n)))).length = ant.toList.length
          + proto.toList.length + ttype.toList.length
          + ((serial.map serialField).getD []).length + n.length := by
      intro n; simp only [List.length_append]; omega
    have := Ahead.readIf (o := mem) (rd := readMem) (c := ((((c.skip 1).skip
      ant.toList.length).skip proto.toList.length).skip ttype.toList.length).skip
        ((serial.map serialField).getD []).length)
      (n := ((mem.map memField).getD []).length) (by rintro rfl; rfl) ?_
    · rw [this, List.length_cons, e]
      simp only [Cursor.skip_skip]
      congr 3; omega
    · rintro m rfl
      have a5 : Ahead (((((c.skip 1).skip ant.toList.length).skip proto.toList.length).skip
          ttype.toList.length).skip ((serial.map serialField).getD []).length)
          (le16 m.bits ++ (m.data ++ rest)) := by
        simpa [memField, List.append_assoc] using a4
      refine readMem_eq_ok.mpr ⟨_, a5.readU16, ?_⟩
      have a6 := a5.skip
      rw [le16_length] at a6
      rw [a6.readN (hm m rfl)]
      simp [memField, hm m rfl, Nat.add_assoc, Cursor.skip_skip]

/-- Records on the wire are decoded to themselves (43_response_decoders.md R118). -/
theorem decTags_wire {known : List Byte} : ∀ {recs : List (Byte × TagRecord)} {c : Cursor}
    {rest : Bytes}, (∀ r ∈ recs, tagOk known r.2 = true) →
    Ahead c (recs.flatMap (fun r => tagWire r.1 r.2) ++ rest) →
    decTags known recs.length c
      = .ok (recs.map Prod.snd, c.skip (recs.flatMap fun r => tagWire r.1 r.2).length)
  | [], c, rest, _, _ => by simp [decTags]
  | r :: recs, c, rest, hok, h => by
    simp only [List.flatMap_cons, List.append_assoc] at h
    refine decTags_succ_eq_ok.mpr ⟨r.2, _, recs.map Prod.snd, decTag_wire (hok r (by simp)) h, ?_, rfl⟩
    rw [decTags_wire (fun x hx => hok x (by simp [hx])) h.skip]
    simp [Cursor.skip_skip]

/-- After good records, the error of the next record is the error of the record loop, when it asks for one more (43_response_decoders.md R118). -/
theorem decTags_wire_error {known : List Byte} {f : Fail} :
    ∀ {recs : List (Byte × TagRecord)} {n : Nat} {c : Cursor} {rest : Bytes},
    (∀ r ∈ recs, tagOk known r.2 = true) → recs.length < n →
    Ahead c (recs.flatMap (fun r => tagWire r.1 r.2) ++ rest) →
    decTag known (c.skip (recs.flatMap fun r => tagWire r.1 r.2).length) = .error f →
    decTags known n c = .error f
  | _, 0, _, _, _, hn, _, _ => absurd hn (Nat.not_lt_zero _)
  | [], n + 1, c, rest, _, _, _, hf => by
    have hf : decTag known c = .error f := hf
    simp only [decTags, hf, except_bind_error]
  | r :: recs, n + 1, c, rest, hok, hn, h, hf => by
    simp only [List.flatMap_cons, List.append_assoc, List.length_append] at h hf
    have ih := decTags_wire_error (n := n) (fun x hx => hok x (by simp [hx]))
      (by simpa using hn) h.skip (by rw [Cursor.skip_skip]; exact hf)
    simp only [decTags, decTag_wire (hok r (by simp)) h, ih, except_bind_ok, except_bind_error]

/-- The error of the record loop is the error of `dec_inv` (43_response_decoders.md R118). -/
theorem decInv_error {known : List Byte} {stop count : Byte} {total : Half} {body : Bytes}
    {base : Nat} {f : Fail}
    (hf : decTags known count.toNat
      ((cursor (stop :: (le16 total ++ count :: body)) base).skip 4) = .error f) :
    decInv known (stop :: (le16 total ++ count :: body)) base = .error f := by
  have a0 := ahead_cursor (stop :: (le16 total ++ count :: body)) base
  have a1 := a0.skip_one
  have h2 : readU8 ((((cursor (stop :: (le16 total ++ count :: body)) base).skip 1)).skip 2)
      = .ok (count, (cursor (stop :: (le16 total ++ count :: body)) base).skip 4) :=
    a1.skip.readU8
  simp only [decInv, a0.readU8, a1.readU16, h2, hf, except_bind_ok, except_bind_error]

/-! How many bytes a record takes (43_response_decoders.md R122). -/

theorem readSerial_size {c c' : Cursor} {s : Bytes} (h : readSerial c = .ok (s, c')) :
    c'.pos = c.pos + (1 + s.length) := by
  obtain ⟨l, d, hl, hs⟩ := readSerial_eq_ok.mp h
  obtain ⟨-, rfl⟩ := readU8_eq_ok.mp hl
  obtain ⟨hb, rfl, rfl⟩ := readN_eq_ok.mp hs
  rw [slice_length hb]
  simp only [Nat.add_assoc]

theorem readMem_size {c c' : Cursor} {m : TagMemory} (h : readMem c = .ok (m, c')) :
    m.data.length = ceil8 m.bits.toNat ∧ c'.pos = c.pos + (2 + m.data.length) := by
  obtain ⟨d, hb, hd⟩ := readMem_eq_ok.mp h
  obtain ⟨_, _, -, -, -, rfl⟩ := readU16_eq_ok.mp hb
  obtain ⟨hl, e, rfl⟩ := readN_eq_ok.mp hd
  rw [e, slice_length hl]
  exact ⟨rfl, by simp only [Nat.add_assoc]⟩

theorem readIf_size {α : Type} {p : Bool} {rd : Reader α} {c c' : Cursor} {o : Option α}
    {size : Option α → Nat} (h0 : size none = 0)
    (hs : ∀ v, o = some v → rd c = .ok (v, c') → c'.pos = c.pos + size o)
    (h : readIf p rd c = .ok (o, c')) : o.isSome = p ∧ c'.pos = c.pos + size o := by
  obtain ⟨rfl, rfl, rfl⟩ | ⟨rfl, v, rfl, hv⟩ := readIf_eq_ok.mp h
  · exact ⟨rfl, by rw [h0]; rfl⟩
  · exact ⟨rfl, hs v rfl hv⟩

theorem readU8_size {c c' : Cursor} {b : Byte} (h : readU8 c = .ok (b, c')) :
    c'.pos = c.pos + 1 := by
  obtain ⟨-, rfl⟩ := readU8_eq_ok.mp h; rfl

/-- A decoded record: its presence bits, its size and its shape (43_response_decoders.md R119, R122). -/
theorem decTag_size {known : List Byte} {c c' : Cursor} {t : TagRecord}
    (h : decTag known c = .ok (t, c')) :
    (∃ fl, c.buf[c.pos]? = some fl ∧ t.ant.isSome = bit fl 0 ∧ t.proto.isSome = bit fl 1 ∧
      t.ttype.isSome = bit fl 2 ∧ t.serial.isSome = bit fl 3 ∧ t.mem.isSome = bit fl 4 ∧
      bit fl 7 = false) ∧
    c'.pos = c.pos + tagSize t ∧ tagOk known t = true := by
  obtain ⟨fl, c0, c1, c2, c3, c4, h0, h1, h2, h3, h4, h5, h7⟩ := decTag_eq_ok.mp h
  have hok : tagOk known t = true := by
    refine tagOk_iff.mpr ⟨fun v hv => ?_, fun s hs => ?_, fun m hm => ?_⟩
    · rw [hv] at h2
      obtain ⟨-, hn, -⟩ | ⟨-, v', e, h⟩ := readIf_eq_ok.mp h2
      · cases hn
      · cases e; exact (readProto_eq_ok.mp h).2
    · rw [hs] at h4
      obtain ⟨-, hn, -⟩ | ⟨-, v', e, h⟩ := readIf_eq_ok.mp h4
      · cases hn
      · cases e
        obtain ⟨l, d, -, hr⟩ := readSerial_eq_ok.mp h
        obtain ⟨hb, rfl, -⟩ := readN_eq_ok.mp hr
        rw [slice_length hb]
        have := l.isLt; omega
    · rw [hm] at h5
      obtain ⟨-, hn, -⟩ | ⟨-, v', e, h⟩ := readIf_eq_ok.mp h5
      · cases hn
      · cases e; exact (readMem_size h).1
  have k0 := readU8_size h0
  have k1 := readIf_size (size := fun o => o.isSome.toNat) rfl
    (fun v hv h => by rw [hv]; exact readU8_size h) h1
  have k2 := readIf_size (size := fun o => o.isSome.toNat) rfl
    (fun v hv h => by rw [hv]; exact readU8_size (readProto_eq_ok.mp h).1) h2
  have k3 := readIf_size (size := fun o => o.isSome.toNat) rfl
    (fun v hv h => by rw [hv]; exact readU8_size h) h3
  have k4 := readIf_size (size := fun o => (o.map fun s => 1 + s.length).getD 0) rfl
    (fun v hv h => by rw [hv]; exact readSerial_size h) h4
  have k5 := readIf_size (size := fun o => (o.map fun m => 2 + m.data.length).getD 0) rfl
    (fun v hv h => by rw [hv]; exact (readMem_size h).2) h5
  refine ⟨⟨fl, (readU8_eq_ok.mp h0).1, k1.1, k2.1, k3.1, k4.1, k5.1, h7⟩, ?_, hok⟩
  rw [k5.2, k4.2, k3.2, k2.2, k1.2, k0]
  simp only [tagSize]
  omega

/-- Decoded records: their number, their sizes and their shapes (43_response_decoders.md R118). -/
theorem decTags_size {known : List Byte} : ∀ {n : Nat} {c c' : Cursor} {ts : List TagRecord},
    decTags known n c = .ok (ts, c') →
    ts.length = n ∧ c'.pos = c.pos + (ts.map tagSize).sum ∧ ∀ t ∈ ts, tagOk known t = true
  | 0, c, c', ts, h => by cases h; simp
  | n + 1, c, c', ts, h => by
    obtain ⟨t, d, us, ht, hu, rfl⟩ := decTags_succ_eq_ok.mp h
    obtain ⟨-, k1, k2⟩ := decTag_size ht
    obtain ⟨l1, l2, l3⟩ := decTags_size hu
    exact ⟨by simp [l1], by rw [l2, k1]; simp [Nat.add_assoc], by simpa [k2] using l3⟩

/-! What a reader that succeeds does on a shortened buffer: the same when all it takes is there, else it fails with FIELD (43_response_decoders.md R123). -/

/-- The cursor with its buffer shortened to `k` bytes. -/
def Cursor.cut (c : Cursor) (k : Nat) : Cursor := { c with buf := c.buf.take k }

@[simp] theorem Cursor.cut_pos (c : Cursor) (k : Nat) : (c.cut k).pos = c.pos := rfl

/-- A reader that fails on a shortened buffer exactly where bytes are missing. -/
def CutSafe {α : Type} (rd : Reader α) : Prop :=
  ∀ ⦃c c' : Cursor⦄ ⦃v : α⦄ ⦃k : Nat⦄, rd c = .ok (v, c') → c.pos ≤ k →
    (c'.pos ≤ k ∧ rd (c.cut k) = .ok (v, c'.cut k)) ∨ ∃ p, rd (c.cut k) = .error ⟨.field, p⟩

theorem CutSafe.readN (n : Nat) : CutSafe (readN n) := by
  intro c c' v k h hk
  obtain ⟨hl, rfl, rfl⟩ := readN_eq_ok.mp h
  by_cases hn : c.pos + n ≤ k
  · refine .inl ⟨hn, readN_eq_ok.mpr ⟨by simp [Cursor.cut]; omega, ?_, rfl⟩⟩
    simp only [Cursor.cut, slice, List.drop_take, List.take_take]
    congr 1; omega
  · exact .inr ⟨_, readN_eq_error.mpr ⟨by simp [Cursor.cut]; omega, rfl⟩⟩

theorem CutSafe.map {α β : Type} {rd : Reader α} (h : CutSafe rd) (f : α → β) :
    CutSafe fun c => (rd c).map fun r => (f r.1, r.2) := by
  intro c c' v k he hk
  obtain ⟨⟨a, d⟩, ha, e⟩ := except_map_eq_ok.mp he
  cases e
  obtain ⟨hp, h'⟩ | ⟨p, h'⟩ := h ha hk
  · exact .inl ⟨hp, except_map_eq_ok.mpr ⟨_, h', rfl⟩⟩
  · exact .inr ⟨p, except_map_eq_error.mpr h'⟩

theorem CutSafe.bind {α β : Type} {rd : Reader α} {f : α → Reader β} (h : CutSafe rd)
    (hf : ∀ a, CutSafe (f a)) : CutSafe fun c => rd c >>= fun r => f r.1 r.2 := by
  intro c c' v k he hk
  obtain ⟨⟨a, d⟩, ha, e⟩ := except_bind_eq_ok.mp he
  obtain ⟨hp, h'⟩ | ⟨p, h'⟩ := h ha hk
  · obtain ⟨hq, e'⟩ | ⟨q, e'⟩ := hf a e hp
    · exact .inl ⟨hq, except_bind_eq_ok.mpr ⟨_, h', e'⟩⟩
    · exact .inr ⟨q, except_bind_eq_error.mpr (.inr ⟨_, h', e'⟩)⟩
  · exact .inr ⟨p, except_bind_eq_error.mpr (.inl h')⟩

theorem CutSafe.pure {α : Type} (a : α) : CutSafe fun c => .ok (a, c) := by
  intro c c' v k he hk
  cases he
  exact .inl ⟨hk, rfl⟩

theorem CutSafe.readU8 : CutSafe readU8 := (CutSafe.readN 1).map fun b => byteAt b 0

theorem CutSafe.readU16 : CutSafe readU16 :=
  (CutSafe.readN 2).map fun b => u16le (byteAt b 0) (byteAt b 1)

theorem CutSafe.readIf {α : Type} {rd : Reader α} (h : CutSafe rd) (p : Bool) :
    CutSafe (readIf p rd) := by
  cases p
  · exact CutSafe.pure none
  · exact h.map some

theorem CutSafe.readProto (known : List Byte) : CutSafe (readProto known) := by
  intro c c' v k he hk
  obtain ⟨h, hv⟩ := readProto_eq_ok.mp he
  obtain ⟨hp, h'⟩ | ⟨p, h'⟩ := CutSafe.readU8 h hk
  · exact .inl ⟨hp, readProto_eq_ok.mpr ⟨h', hv⟩⟩
  · exact .inr ⟨p, except_bind_eq_error.mpr (.inl h')⟩

theorem CutSafe.readSerial : CutSafe readSerial :=
  CutSafe.readU8.bind fun l => CutSafe.readN l.toNat

theorem CutSafe.readMem : CutSafe readMem :=
  CutSafe.readU16.bind fun bits => (CutSafe.readN (ceil8 bits.toNat)).bind fun d =>
    CutSafe.pure (TagMemory.mk bits d)

theorem CutSafe.decTag (known : List Byte) : CutSafe (decTag known) := by
  intro c c' t k h hk
  obtain ⟨fl, c0, c1, c2, c3, c4, h0, h1, h2, h3, h4, h5, h7⟩ := decTag_eq_ok.mp h
  obtain ⟨k0, e0⟩ | ⟨p, e0⟩ := CutSafe.readU8 h0 hk
  swap
  · exact .inr ⟨p, by simp [Machine.decTag, e0]⟩
  obtain ⟨k1, e1⟩ | ⟨p, e1⟩ := CutSafe.readU8.readIf _ h1 k0
  swap
  · exact .inr ⟨p, by simp [Machine.decTag, e0, e1]⟩
  obtain ⟨k2, e2⟩ | ⟨p, e2⟩ := (CutSafe.readProto known).readIf _ h2 k1
  swap
  · exact .inr ⟨p, by simp [Machine.decTag, e0, e1, e2]⟩
  obtain ⟨k3, e3⟩ | ⟨p, e3⟩ := CutSafe.readU8.readIf _ h3 k2
  swap
  · exact .inr ⟨p, by simp [Machine.decTag, e0, e1, e2, e3]⟩
  obtain ⟨k4, e4⟩ | ⟨p, e4⟩ := CutSafe.readSerial.readIf _ h4 k3
  swap
  · exact .inr ⟨p, by simp [Machine.decTag, e0, e1, e2, e3, e4]⟩
  obtain ⟨k5, e5⟩ | ⟨p, e5⟩ := CutSafe.readMem.readIf _ h5 k4
  swap
  · exact .inr ⟨p, by simp [Machine.decTag, e0, e1, e2, e3, e4, e5]⟩
  exact .inl ⟨k5, decTag_eq_ok.mpr ⟨_, _, _, _, _, _, e0, e1, e2, e3, e4, e5, h7⟩⟩

theorem CutSafe.decTags (known : List Byte) : ∀ n, CutSafe (decTags known n)
  | 0 => CutSafe.pure []
  | n + 1 => by
    intro c c' ts k h hk
    obtain ⟨t, d, us, ht, hu, rfl⟩ := decTags_succ_eq_ok.mp h
    obtain ⟨k0, e0⟩ | ⟨p, e0⟩ := CutSafe.decTag known ht hk
    swap
    · exact .inr ⟨p, by simp [Machine.decTags, e0]⟩
    obtain ⟨k1, e1⟩ | ⟨p, e1⟩ := CutSafe.decTags known n hu k0
    swap
    · exact .inr ⟨p, by simp [Machine.decTags, e0, e1]⟩
    exact .inl ⟨k1, decTags_succ_eq_ok.mpr ⟨_, _, _, e0, e1, rfl⟩⟩

/-! The reasons a decoder can fail with (44_cursor.md R136 (d); 43_response_decoders.md R120, R121). -/

/-- The reasons of a failed record. -/
abbrev RecordReason (r : Reason) : Prop :=
  r = .field ∨ (∃ b, r = .unknownProtocol b) ∨ r = .embeddedCommand

theorem readIf_reason {α : Type} {p : Bool} {rd : Reader α} {c : Cursor} {f : Fail}
    (h : readIf p rd c = .error f) : rd c = .error f := by
  cases p
  · cases h
  · exact except_map_eq_error.mp h

theorem readU8_reason {c : Cursor} {f : Fail} (h : readU8 c = .error f) :
    RecordReason f.reason := by
  obtain ⟨-, rfl⟩ := readU8_eq_error.mp h; exact .inl rfl

theorem readN_reason {n : Nat} {c : Cursor} {f : Fail} (h : readN n c = .error f) :
    RecordReason f.reason := by
  obtain ⟨-, rfl⟩ := readN_eq_error.mp h; exact .inl rfl

theorem readU16_reason {c : Cursor} {f : Fail} (h : readU16 c = .error f) :
    RecordReason f.reason := by
  obtain ⟨-, rfl⟩ := readU16_eq_error.mp h; exact .inl rfl

theorem readProto_reason {known : List Byte} {c : Cursor} {f : Fail}
    (h : readProto known c = .error f) : RecordReason f.reason := by
  obtain h | ⟨⟨v, d⟩, -, h⟩ := except_bind_eq_error.mp h
  · exact readU8_reason h
  · dsimp only at h
    split at h
    · cases h
    · cases h; exact .inr (.inl ⟨_, rfl⟩)

theorem readSerial_reason {c : Cursor} {f : Fail} (h : readSerial c = .error f) :
    RecordReason f.reason := by
  obtain h | ⟨⟨l, d⟩, -, h⟩ := except_bind_eq_error.mp h
  · exact readU8_reason h
  · exact readN_reason h

theorem readMem_reason {c : Cursor} {f : Fail} (h : readMem c = .error f) :
    RecordReason f.reason := by
  obtain h | ⟨⟨l, d⟩, -, h⟩ := except_bind_eq_error.mp h
  · exact readU16_reason h
  · obtain h | ⟨_, -, h⟩ := except_bind_eq_error.mp h
    · exact readN_reason h
    · cases h

theorem decTag_reason {known : List Byte} {c : Cursor} {f : Fail}
    (h : decTag known c = .error f) : RecordReason f.reason := by
  unfold decTag at h
  obtain h | ⟨_, -, h⟩ := except_bind_eq_error.mp h
  · exact readU8_reason h
  obtain h | ⟨_, -, h⟩ := except_bind_eq_error.mp h
  · exact readU8_reason (readIf_reason h)
  obtain h | ⟨_, -, h⟩ := except_bind_eq_error.mp h
  · exact readProto_reason (readIf_reason h)
  obtain h | ⟨_, -, h⟩ := except_bind_eq_error.mp h
  · exact readU8_reason (readIf_reason h)
  obtain h | ⟨_, -, h⟩ := except_bind_eq_error.mp h
  · exact readSerial_reason (readIf_reason h)
  obtain h | ⟨_, -, h⟩ := except_bind_eq_error.mp h
  · exact readMem_reason (readIf_reason h)
  · dsimp only at h
    split at h
    · cases h; exact .inr (.inr rfl)
    · cases h

theorem decTags_reason {known : List Byte} : ∀ {n : Nat} {c : Cursor} {f : Fail},
    decTags known n c = .error f → RecordReason f.reason
  | 0, c, f, h => by cases h
  | n + 1, c, f, h => by
    obtain h | ⟨_, -, h⟩ := except_bind_eq_error.mp h
    · exact decTag_reason h
    obtain h | ⟨_, -, h⟩ := except_bind_eq_error.mp h
    · exact decTags_reason h
    · cases h

theorem decInv_reason {known : List Byte} {p : Bytes} {base : Nat} {f : Fail}
    (h : decInv known p base = .error f) : RecordReason f.reason ∨ f.reason = .trailing := by
  unfold decInv at h
  obtain h | ⟨_, -, h⟩ := except_bind_eq_error.mp h
  · exact .inl (readU8_reason h)
  obtain h | ⟨_, -, h⟩ := except_bind_eq_error.mp h
  · exact .inl (readU16_reason h)
  obtain h | ⟨_, -, h⟩ := except_bind_eq_error.mp h
  · exact .inl (readU8_reason h)
  obtain h | ⟨_, -, h⟩ := except_bind_eq_error.mp h
  · exact .inl (decTags_reason h)
  · dsimp only at h
    split at h
    · cases h; exact .inr rfl
    · cases h

theorem decRscb_reason {p : Bytes} {base : Nat} {f : Fail} (h : decRscb p base = .error f) :
    f.reason = .field ∨ f.reason = .cfgBytes := by
  unfold decRscb at h
  obtain h | ⟨_, -, h⟩ := except_bind_eq_error.mp h
  · obtain ⟨-, rfl⟩ := readU8_eq_error.mp h; exact .inl rfl
  · dsimp only at h
    split at h
    · cases h; exact .inr rfl
    · obtain h | ⟨_, -, h⟩ := except_bind_eq_error.mp h
      · obtain ⟨-, rfl⟩ := readN_eq_error.mp h; exact .inl rfl
      · cases h

/-! A reader sees the bytes ahead of its cursor only: two buffers that differ behind the cursor read alike. -/

/-- Two cursors at one position of two buffers of one length that agree from there on. -/
structure Twin (c d : Cursor) : Prop where
  base   : d.base = c.base
  pos    : d.pos = c.pos
  length : d.buf.length = c.buf.length
  ahead  : d.buf.drop d.pos = c.buf.drop c.pos

/-- Two reads with the same result: one value and twin cursors, or one error. -/
inductive TwinResult {α : Type} : Except Fail (α × Cursor) → Except Fail (α × Cursor) → Prop
  | ok (v : α) {c d : Cursor} (h : Twin c d) : TwinResult (.ok (v, c)) (.ok (v, d))
  | error (f : Fail) : TwinResult (.error f) (.error f)

/-- A reader that reads twin cursors alike. -/
def SeesAhead {α : Type} (rd : Reader α) : Prop :=
  ∀ ⦃c d : Cursor⦄, Twin c d → TwinResult (rd c) (rd d)

theorem TwinResult.map {α β : Type} {x y : Except Fail (α × Cursor)} (h : TwinResult x y)
    (f : α → β) : TwinResult (x.map fun r => (f r.1, r.2)) (y.map fun r => (f r.1, r.2)) := by
  cases h with
  | ok v h => exact .ok _ h
  | error f => exact .error f

theorem TwinResult.bind {α β : Type} {x y : Except Fail (α × Cursor)} (h : TwinResult x y)
    {f : α × Cursor → Except Fail (β × Cursor)}
    (hf : ∀ v {c d}, Twin c d → TwinResult (f (v, c)) (f (v, d))) :
    TwinResult (x >>= f) (y >>= f) := by
  cases h with
  | ok v h => exact hf v h
  | error e => exact .error e

theorem SeesAhead.readN (n : Nat) : SeesAhead (readN n) := by
  intro c d h
  obtain ⟨cb, cbase, cp⟩ := c
  obtain ⟨db, dbase, dp⟩ := d
  obtain ⟨h1, h2, h3, h4⟩ := h
  dsimp only at h1 h2 h3 h4
  subst h1 h2
  unfold Machine.readN
  dsimp only
  rw [h3]
  split
  · exact .error _
  · have : slice db dp n = slice cb dp n := by simp only [slice, h4]
    rw [this]
    refine .ok _ ⟨rfl, rfl, h3, ?_⟩
    dsimp only
    rw [← List.drop_drop, ← List.drop_drop, h4]

theorem SeesAhead.readU8 : SeesAhead readU8 := fun _ _ h =>
  (SeesAhead.readN 1 h).map fun b => byteAt b 0

theorem SeesAhead.readU16 : SeesAhead readU16 := fun _ _ h =>
  (SeesAhead.readN 2 h).map fun b => u16le (byteAt b 0) (byteAt b 1)

theorem SeesAhead.readIf {α : Type} {rd : Reader α} (h : SeesAhead rd) (p : Bool) :
    SeesAhead (readIf p rd) := by
  intro c d hcd
  cases p
  · exact .ok _ hcd
  · exact (h hcd).map some

theorem SeesAhead.readProto (known : List Byte) : SeesAhead (readProto known) := by
  intro c d h
  unfold Machine.readProto
  rw [h.base, h.pos]
  refine (SeesAhead.readU8 h).bind fun v c' d' h' => ?_
  dsimp only
  split
  · exact .ok _ h'
  · exact .error _

theorem SeesAhead.readSerial : SeesAhead readSerial := fun _ _ h =>
  (SeesAhead.readU8 h).bind fun l _ _ h' => SeesAhead.readN l.toNat h'

theorem SeesAhead.readMem : SeesAhead readMem := fun _ _ h =>
  (SeesAhead.readU16 h).bind fun b _ _ h' =>
    (SeesAhead.readN (ceil8 b.toNat) h').bind fun _ _ _ h'' => .ok _ h''

/-- The fields of a record after its flag byte (43_response_decoders.md R119, steps 2 to 6). -/
def tagFields (known : List Byte) (fl : Byte) : Reader TagRecord := fun c => do
  let (ant, c) ← readIf (bit fl 0) readU8 c
  let (proto, c) ← readIf (bit fl 1) (readProto known) c
  let (ttype, c) ← readIf (bit fl 2) readU8 c
  let (serial, c) ← readIf (bit fl 3) readSerial c
  let (mem, c) ← readIf (bit fl 4) readMem c
  .ok (⟨ant, proto, ttype, serial, mem⟩, c)

theorem SeesAhead.tagFields (known : List Byte) (fl : Byte) : SeesAhead (tagFields known fl) :=
  fun _ _ h =>
    (SeesAhead.readU8.readIf _ h).bind fun _ _ _ h =>
    ((SeesAhead.readProto known).readIf _ h).bind fun _ _ _ h =>
    (SeesAhead.readU8.readIf _ h).bind fun _ _ _ h =>
    (SeesAhead.readSerial.readIf _ h).bind fun _ _ _ h =>
    (SeesAhead.readMem.readIf _ h).bind fun _ _ _ h => .ok _ h

/-- A record is its flag byte, its fields, and the check of flag bit 7 (43_response_decoders.md R119). -/
theorem decTag_eq (known : List Byte) (c : Cursor) :
    decTag known c = readU8 c >>= fun x => tagFields known x.1 x.2 >>= fun y =>
      if bit x.1 7 then .error ⟨.embeddedCommand, y.2.base + y.2.pos⟩ else .ok y := by
  unfold decTag tagFields
  cases readU8 c with
  | error e => rfl
  | ok x =>
    simp only [except_bind_ok]
    cases readIf (bit x.1 0) readU8 x.2 with
    | error e => rfl
    | ok a =>
      simp only [except_bind_ok]
      cases readIf (bit x.1 1) (readProto known) a.2 with
      | error e => rfl
      | ok p =>
        simp only [except_bind_ok]
        cases readIf (bit x.1 2) readU8 p.2 with
        | error e => rfl
        | ok ty =>
          simp only [except_bind_ok]
          cases readIf (bit x.1 3) readSerial ty.2 with
          | error e => rfl
          | ok s =>
            simp only [except_bind_ok]
            cases readIf (bit x.1 4) readMem s.2 <;> rfl

end Sys2Proof.Machine
end

