-- ==== Sys2Proof/Tests/Slice0.lean ====
section
/-! SUPPORT. Tests: the well-formedness checks, every op word written out from 30_encoding.md R79, one-step vectors of 95_test_vectors.md, and a witness for the hypotheses of every statement that has some. -/

namespace Sys2Proof.Tests

open Sys2Proof Sys2Proof.Machine Sys2Proof.Config

/-! ### Helpers -/

/-- The exchange of an I-Block request with this command code is outstanding, these bytes received ("after ENC_RSCB@0", "after ENC_INV@0" of 95_test_vectors.md). -/
def awaiting (cmd : Byte) (rx : Bytes) : State :=
  { State.reset with seq := 1, await := true, pendCmd := cmd, rxbuf := rx }

/-- These bytes received, the cursor at `pos`. -/
def received (rx : Bytes) (pos : Nat) : State := { State.reset with rxbuf := rx, curPos := pos }

/-- These words and nothing else on the port. -/
def ported (ws : List Input) : State := { State.reset with port := ws }

/-- Whether an outcome is a next state with a property. -/
def nextIs (r : Result) (p : State → Bool) : Bool :=
  match r with
  | .next t => p t
  | .fault _ => false
  | .refused _ => false

/-- The op ended with ok and this result kind. -/
def okAs (k : ResKind) (t : State) : Bool :=
  t.status == ⟨.none, 0, 0⟩ && t.resValid && t.resKind == k

/-- The op raised. -/
def raised (k : ErrKind) (sub : Byte) (pos : Nat) (t : State) : Bool :=
  t.status == ⟨k, sub, pos⟩ && !t.resValid

/-- The exchange ended with a resync due (43_response_decoders.md R114). -/
def dropped (t : State) : Bool := !t.await && t.needResync && t.rxbuf == [] && t.curPos == 0

/-! ### Well-formedness: one ill-formed term for each check -/

theorem test_wf_info_too_long : ∃ info, (Instr.buildReq 0 info).wellFormed = false :=
  ⟨List.replicate 65536 0, by simp only [Instr.wellFormed, List.length_replicate]; decide⟩

theorem test_wf_push_too_long : ∃ bytes, (Instr.rxPush bytes).wellFormed = false :=
  ⟨List.replicate 65536 0, by simp only [Instr.wellFormed, List.length_replicate]; decide⟩

theorem test_wf_ant_too_long : ∃ ant, ant.length = 256 ∧
    (Instr.encInv 0 0x01 (some ant) none).wellFormed = false :=
  ⟨List.replicate 256 0, List.length_replicate, by
    simp only [Instr.wellFormed, Option.getD_some, List.length_replicate]; decide⟩

theorem test_wf_ant_against_opt : (Instr.encInv 0 0x01 none none).wellFormed = false := by decide

theorem test_wf_stop_against_opt :
    (Instr.encInv 0 0x00 none (some ⟨0, 0, 0⟩)).wellFormed = false := by decide

/-! ### Decoding: every op word, from the layouts of R79 -/

theorem test_decode_open_session : decode [0x01] = .ok .openSession := rfl
theorem test_decode_resync : decode [0x02, 0x05] = .ok (.resync 0x05) := rfl
theorem test_decode_build_req :
    decode [0x03, 0x07, 0x02, 0x00, 0x31, 0x00] = .ok (.buildReq 0x07 [0x31, 0x00]) := rfl
theorem test_decode_enc_rscb :
    decode [0x04, 0x00, 0x85, 0x03] = .ok (.encRscb 0x00 0x85 0x03) := rfl
theorem test_decode_enc_inv :
    decode [0x05, 0x09, 0x05, 0x02, 0xA1, 0xA2, 0x03, 0x78, 0x56, 0x34, 0x12, 0xCD, 0xAB]
      = .ok (.encInv 0x09 0x05 (some [0xA1, 0xA2]) (some ⟨0x03, 0x12345678, 0xABCD⟩)) := rfl
theorem test_decode_enc_inv_plain :
    decode [0x05, 0x00, 0x00] = .ok (.encInv 0x00 0x00 none none) := rfl
theorem test_decode_rx_push :
    decode [0x06, 0x03, 0x00, 0x0A, 0x0B, 0x0C] = .ok (.rxPush [0x0A, 0x0B, 0x0C]) := rfl
theorem test_decode_decode_env : decode [0x07] = .ok .decodeEnv := rfl
theorem test_decode_decode_resp : decode [0x08] = .ok .decodeResp := rfl
theorem test_decode_timeout : decode [0x09] = .ok .timeout := rfl
theorem test_decode_abandon : decode [0x0A] = .ok .abandon := rfl
theorem test_decode_force_seq : decode [0x0B, 0xFF] = .ok (.forceSeq 0xFF) := rfl
theorem test_decode_cur_set :
    decode [0x0C, 0x78, 0x56, 0x34, 0x12] = .ok (.curSet 0x12345678) := rfl
theorem test_decode_cur_rd : decode [0x0D, 0x34, 0x12] = .ok (.curRd 0x1234) := rfl
theorem test_decode_cur_rd8 : decode [0x0E] = .ok .curRd8 := rfl
theorem test_decode_cur_rd16 : decode [0x0F] = .ok .curRd16 := rfl
theorem test_decode_cur_rd32 : decode [0x10] = .ok .curRd32 := rfl

/-- VE1 to VE4: illegal opcodes and the empty word. -/
theorem test_decode_rejects_opcodes :
    decode [0x00] = .error .illegalOpcode ∧ decode [0x11] = .error .illegalOpcode ∧
      decode [0xFF, 0x00, 0x00] = .error .illegalOpcode ∧ decode [] = .error .emptyWord :=
  ⟨rfl, rfl, rfl, rfl⟩

/-- VE5 to VE12, VF8, VC15: words of a wrong length. -/
theorem test_decode_rejects_lengths :
    decode [0x01, 0x00] = .error .wrongLength ∧ decode [0x02] = .error .wrongLength ∧
      decode [0x04, 0x00, 0x40] = .error .wrongLength ∧
      decode [0x05, 0x00] = .error .wrongLength ∧ decode [0x05, 0x00, 0x01] = .error .wrongLength ∧
      decode [0x06, 0x05, 0x00, 0x01] = .error .wrongLength ∧
      decode [0x0D, 0x01] = .error .wrongLength ∧
      decode [0x0C, 0x00, 0x00, 0x00] = .error .wrongLength ∧
      decode [0x03, 0x00, 0x02, 0x00, 0x31] = .error .wrongLength ∧
      decode [0x05, 0x00, 0x04] = .error .wrongLength :=
  ⟨rfl, rfl, rfl, rfl, rfl, rfl, rfl, rfl, rfl, rfl⟩

/-- The host's table word: `opt` = 0x05 needs `alen` and the stop fields, taken as zeros. -/
theorem test_table_word : decodeTableWord 24 0x050905
    = some (.encInv 0x09 0x05 (some []) (some ⟨0, 0, 0⟩)) := by decide

/-! ### One step of each op, from 95_test_vectors.md -/

/-- VS1: the table of 10_state.md R44, RES_VALID apart; the cleared CALLER_ERR is kept as a fault of the run (70_reset_and_hazards.md R165(b)). -/
theorem test_open_session : nextIs (exec .openSession
    { State.reset with seq := 1, needResync := true, callerErr := true, rxbuf := [0xAA] })
    (fun t => okAs .none t && t.callerErrPast
      && { t with resValid := false, callerErrPast := false } == State.reset) = true := by decide

/-- VS2. -/
theorem test_resync_ends_exchange : nextIs (exec (.resync 0x03) (awaiting 0x01 [0x40]))
    (fun t => okAs .tx t && t.txLast == [0xC0, 0x03] && t.seq == 0 && !t.await && t.rxbuf == []
      && t.pendCmd == 0x01) = true := by decide

/-- W6, last row. -/
theorem test_resync_from_illegal_seq : nextIs (exec (.resync 0x05)
    { State.reset with seq := 0xFF, needResync := true })
    (fun t => okAs .tx t && t.tx == [[0xC0, 0x05]] && t.seq == 0 && !t.needResync) = true := by
  decide

/-- VF1. -/
theorem test_build_req : nextIs (exec (.buildReq 0x07 [0x31, 0x00]) { State.reset with seq := 1 })
    (fun t => okAs .tx t && t.tx == [[0x40, 0x07, 0x31, 0x00]] && t.seq == 0 && t.await
      && t.pendCmd == 0x31 && t.pendSeq && t.pendRid == 0x07) = true := by decide

/-- VF6. -/
theorem test_build_req_resync_first : nextIs (exec (.buildReq 0x00 [0x01, 0x85, 0x03])
    { State.reset with needResync := true, seq := 2 })
    (fun t => raised .invalidState 0x02 0 t && t.seq == 2 && t.tx == []) = true := by decide

/-- VF9: a second request while one is outstanding. -/
theorem test_enc_rscb_caller_error : nextIs (exec (.encRscb 0x02 0x01 0x01) (awaiting 0x01 []))
    (fun t => okAs .tx t && t.txLast == [0x40, 0x02, 0x01, 0x01, 0x01] && t.callerErr
      && t.pendRid == 0x02 && t.pendSeq && t.seq == 0) = true := by decide

/-- VC4. -/
theorem test_enc_rscb_reserved : nextIs (exec (.encRscb 0x00 0xC5 0x03) State.reset)
    (fun t => raised .unsupported 0x03 0 t && t.seq == 0) = true := by decide

/-- VC10, with the byte order of VC8 told apart by the timeout 0x00001388. -/
theorem test_enc_inv : nextIs (exec (.encInv 0x09 0x0D (some [0x03]) (some ⟨3, 0x1388, 1⟩))
    State.reset)
    (fun t => t.tx == [[0x00, 0x09, 0x31, 0x0D, 0x03, 0x03, 0x88, 0x13, 0x00, 0x00, 0x01, 0x00]]
      && okAs .tx t) = true := by decide

/-- VC13. -/
theorem test_enc_inv_check_order : nextIs (exec (.encInv 0 0x06 none (some ⟨9, 0, 0⟩)) State.reset)
    (fun t => raised .unsupported 0x06 0 t && t.tx == []) = true := by decide

/-- VD1. -/
theorem test_rx_push : nextIs (exec (.rxPush [0x00, 0x01]) (received [0x40] 1))
    (fun t => okAs .none t && t.rxbuf == [0x40, 0x00, 0x01] && t.curPos == 1) = true := by decide

/-- VD21. -/
theorem test_rx_push_overflow : exec (.rxPush [0x00, 0x00]) { State.reset with
    rxbuf := [0x40, 0x00, 0x01], cfg := { Params.reference with rxBufMax := some 4 } }
    = .refused .rxOverflow := rfl

/-- VF11. -/
theorem test_decode_env_short : nextIs (exec .decodeEnv (received [0x40] 0))
    (fun t => raised .truncated 0x01 1 t && !t.needResync) = true := by decide

/-- VF13. -/
theorem test_decode_env : nextIs (exec .decodeEnv (awaiting 0x01 [0x40, 0x00, 0x01, 0x00]))
    (fun t => okAs .env t && t.envPcb == 0x40 && t.envRid == 0x00 && t.envInfo == [0x01, 0x00]
      && t.rxbuf.length == 4 && t.await) = true := by decide

/-- VT22. -/
theorem test_decode_resp_full_record : nextIs (exec .decodeResp (awaiting 0x31
    [0x40, 0x00, 0x31, 0x00, 0x01, 0x00, 0x01, 0x1F, 0x02, 0x01, 0x05, 0x01, 0x77, 0x04, 0x00, 0x0F]))
    (fun t => okAs .inv t && t.invTags
      == [⟨some 2, some 1, some 5, some [0x77], some ⟨4, [0x0F]⟩⟩] && t.rxbuf == []) = true := by
  decide

/-- W5. -/
theorem test_decode_resp_truncated : nextIs (exec .decodeResp (awaiting 0x31
    [0x40, 0x00, 0x31, 0x00, 0x02, 0x00, 0x02, 0x09, 0x01, 0x02, 0xAA, 0xBB]))
    (fun t => raised .truncated 0x03 12 t && dropped t && t.invTags == [] && t.seq == 1) = true := by
  decide

/-- VS3. -/
theorem test_timeout_idle : nextIs (exec .timeout State.reset)
    (fun t => okAs .none t && !t.needResync) = true := by decide

/-- VS4. -/
theorem test_timeout : nextIs (exec .timeout (awaiting 0x01 [0x40, 0x00]))
    (fun t => raised .timeout 0 0 t && dropped t && t.seq == 1) = true := by decide

/-- VS5. -/
theorem test_abandon_idle : nextIs (exec .abandon (received [0xAA] 0))
    (fun t => okAs .none t && t.rxbuf == [] && !t.needResync) = true := by decide

/-- VS6, first op. -/
theorem test_abandon : nextIs (exec .abandon (awaiting 0x31 []))
    (fun t => okAs .none t && dropped t) = true := by decide

/-- W7, first op. -/
theorem test_force_seq : nextIs (exec (.forceSeq 2) State.reset)
    (fun t => okAs .none t && t.seq == 2) = true := by decide

/-- VK8. -/
theorem test_cur_set : nextIs (exec (.curSet 3) (received [0x0A, 0x0B, 0x0C] 0))
    (fun t => okAs .none t && t.curPos == 3) = true := by decide

/-- VK11. -/
theorem test_cur_set_far : nextIs (exec (.curSet 0x00010000) (received [0x0A, 0x0B, 0x0C] 0))
    (fun t => raised .truncated 0x03 0 t && t.curPos == 0) = true := by decide

/-- VK1. -/
theorem test_cur_rd : nextIs (exec (.curRd 2) (received [0x0A, 0x0B, 0x0C] 1))
    (fun t => okAs .cur t && t.curData == .bytes [0x0B, 0x0C] && t.curPos == 3) = true := by decide

/-- VK3. -/
theorem test_cur_rd_nothing : nextIs (exec (.curRd 0) (received [0x0A, 0x0B, 0x0C] 3))
    (fun t => okAs .cur t && t.curData == .bytes [] && t.curPos == 3) = true := by decide

/-- VK2. -/
theorem test_cur_rd8_end : nextIs (exec .curRd8 (received [0x0A, 0x0B, 0x0C] 3))
    (fun t => raised .truncated 0x03 3 t && t.curPos == 3) = true := by decide

/-- VK4, first op. -/
theorem test_cur_rd16 : nextIs (exec .curRd16 (received [0x34, 0x12, 0x56] 0))
    (fun t => okAs .cur t && t.curData == .u16 0x1234 && t.curPos == 2) = true := by decide

/-- VK5. -/
theorem test_cur_rd32 : nextIs (exec .curRd32 (received [0x78, 0x56, 0x34, 0x12] 0))
    (fun t => okAs .cur t && t.curData == .u32 0x12345678 && t.curPos == 4) = true := by decide

/-! ### Steps, the status read and the assembler -/

/-- The first step after reset runs the word the host places: RESYNC with operand 5. -/
theorem test_step_with_fetch_word : nextIs (step (State.reset.withFetchWord 16 0x0502))
    (fun t => okAs .tx t && t.tx == [[0xC0, 0x05]] && t.port == [] && t.pc == 1) = true := by decide

/-- VE1. -/
theorem test_step_illegal_opcode : nextIs (step (ported [.op [0x00], .op [0x01]]))
    (fun t => raised .unsupported 0x01 0 t && t.port == [.op [0x01]] && t.pc == 1) = true := by
  decide

/-- VE5. -/
theorem test_step_wrong_length : nextIs (step (ported [.op [0x01, 0x00]]))
    (fun t => raised .unsupported 0x02 0 t) = true := by decide

/-- P5's end: the verdict on a run with CALLER_ERR set (70_reset_and_hazards.md R157). -/
theorem test_end_of_run : endOfRun { State.reset with callerErr := true } = .fault .callerError :=
  rfl

/-- R165(b): the fault of a run is not cleared within it, neither by OPEN_SESSION nor by the reset input. -/
theorem test_fault_survives_open_session :
    (match execAll [.encRscb 0 0 0, .encRscb 0 0 0, .openSession] State.reset with
      | .next t => !t.callerErr && (match endOfRun t with
        | .fault .callerError => true
        | _ => false)
      | _ => false) = true := by decide

theorem test_fault_survives_reset : nextIs (step { ported [.reset] with callerErr := true })
    (fun t => !t.callerErr && runFaulty t) = true := by decide

/-- P1's end: the RSCB registers keep their values but may not be read (10_state.md R34). -/
theorem test_status_read : hostRead .rscbData { State.reset with
    rscbBlocks := 1, rscbData := List.replicate 14 0, resKind := .tx, resValid := true }
    = .refused .resultNotNamed := rfl

/-- VC10's line. -/
theorem test_assembler : assembleLine
    "ENC_INV rid=0x09, opt=0x05, ant=[03], stop_type=3, timeout=0xFFFFFFFF, value=0xFFFF"
    = some [0x05, 0x09, 0x05, 0x01, 0x03, 0x03, 0xFF, 0xFF, 0xFF, 0xFF, 0xFF, 0xFF] := by
  decide +kernel

/-! ### Witnesses: the hypotheses of each statement met together, at the boundaries of each clause -/

theorem test_hyp_DecodeEncodeRoundTrip :
    (∃ b : Bytes, b.length = 65535 ∧ WellFormed (.buildReq 0 b) ∧ WellFormed (.rxPush b)) ∧
    (∃ a : Bytes, a.length = 255 ∧ WellFormed (.encInv 0 0x01 (some a) none)) ∧
    WellFormed (.encInv 0xFF 0xFF (some []) (some ⟨0xFF, 0xFFFFFFFF, 0xFFFF⟩)) :=
  ⟨⟨List.replicate 65535 0, List.length_replicate, by
      simp only [WellFormed, Instr.wellFormed, List.length_replicate]; decide⟩,
    ⟨List.replicate 255 0, List.length_replicate, by
      simp only [WellFormed, Instr.wellFormed, Option.getD_some, List.length_replicate]; decide⟩,
    by decide⟩

theorem test_hyp_DecodedWordIsTheEncodersWord : decode [0x05, 0x00, 0x01, 0x00]
    = .ok (.encInv 0x00 0x01 (some []) none) := rfl

theorem test_hyp_WordLengthFollowsTheFormatTable : bit 0x00 0 = false ∧ bit 0xFE 0 = false := by
  decide

theorem test_hyp_IllegalOpcodeRaisesUnsupported : configOk State.reset.cfg = true ∧
    (∀ op ∈ ([0x00, 0x11, 0xFF] : Bytes), (op.toNat = 0 ∨ 0x11 ≤ op.toNat) ∧
      (ported [.op [op]]).port = .op (op :: []) :: []) ∧
    (ported [.op []]).port = .op [] :: [] := by decide

theorem test_hyp_WrongLengthRaisesHostfmt : configOk (ported []).cfg = true ∧
    (∀ op ∈ ([0x01, 0x10] : Bytes), 0x01 ≤ op.toNat ∧ op.toNat ≤ 0x10 ∧
      wordLength (op :: [0x00]) ≠ some ([0x00].length + 1)) ∧
    wordLength [0x05, 0x00, 0x01] ≠ some ([0x00, 0x01].length + 1) := by decide

theorem test_hyp_ReservedOperandBitsRaise : bit 0x40 6 = true ∧ bit 0xFF 6 = true ∧
    16 ≤ (0x10 : Byte).toNat ∧ 16 ≤ (0xFF : Byte).toNat := by decide

theorem test_hyp_StepRunsTheDecodedOp : configOk (ported [.op [0x08]]).cfg = true ∧
    (ported [.op [0x08]]).port = .op [0x08] :: [] ∧ decode [0x08] = .ok .decodeResp :=
  ⟨by decide, rfl, rfl⟩

theorem test_hyp_EmptyPortWaits : configOk State.reset.cfg = true ∧ State.reset.port = [] := by
  decide

theorem test_hyp_BadConfigurationIsRefused :
    configOk { Params.reference with pcbIBase := 0x40 } = false ∧
    configOk { Params.reference with rxBufMax := some 1 } = false ∧
    configOk { Params.reference with rxBufMax := some 2 } = true := by decide

theorem test_hyp_ResetAndOpenSessionRestoreTheTable :
    configOk (ported [.reset]).cfg = true ∧ (ported [.reset]).port = .reset :: [] := by decide

theorem test_hyp_ResyncSendsTheSBlock :
    within (some 2) 2 = true ∧ within State.reset.cfg.txFrameMax 2 = true ∧
      within (some 1) 2 = false ∧
      within { Params.reference with txFrameMax := some 1 }.txFrameMax 2 = false := by decide

theorem test_hyp_ResyncIsIdempotent : ∃ t, exec (.resync 0) State.reset = .next t := ⟨_, rfl⟩

theorem test_hyp_ForceSeqIsCaughtByTheNextBuild :
    (∃ t, exec (.forceSeq 2) State.reset = .next t) ∧ (2 : Byte) ≠ 0 ∧ (2 : Byte) ≠ 1 ∧
      (0xFF : Byte) ≠ 0 ∧ (0xFF : Byte) ≠ 1 ∧ State.reset.needResync = false ∧
      0x31 ∈ State.reset.cfg.validCmds :=
  ⟨⟨_, rfl⟩, by decide⟩

theorem test_hyp_TimeoutEndsTheExchange :
    (awaiting 0x01 []).await = true ∧ State.reset.await = false := by decide

theorem test_hyp_BuildReqOpensTheExchange :
    0x30 ∉ State.reset.cfg.validCmds ∧ 0x31 ∈ State.reset.cfg.validCmds ∧
    { State.reset with needResync := true }.needResync = true ∧
    (State.reset.needResync = false ∧ (2 : Byte) ≠ 0 ∧ (2 : Byte) ≠ 1) ∧
    (State.reset.seq = 0 ∧ { State.reset with seq := 1 }.seq = 1) ∧
    within (some 4) (([0x00, 0x00] : Bytes).length + 3) = false ∧
    within (some 5) (([0x00, 0x00] : Bytes).length + 3) = true := by decide

theorem test_hyp_EncRscbBuildsTheRequest : 0x01 ∈ State.reset.cfg.validCmds ∧ bit 0x40 6 = true ∧
    bit 0xBF 6 = false ∧ State.reset.needResync = false ∧ State.reset.seq = 0 ∧
    within State.reset.cfg.txFrameMax 5 = true ∧ within (some 5) 5 = true ∧
    within { Params.reference with txFrameMax := some 4 }.txFrameMax 5 = false ∧
    { State.reset with needResync := true }.needResync = true ∧ (2 : Byte) ≠ 0 ∧ (2 : Byte) ≠ 1 := by
  decide

theorem test_hyp_EncInvErrorsInOrder : 0x31 ∈ State.reset.cfg.validCmds ∧
    16 ≤ (0x10 : Byte).toNat ∧ (0x0F : Byte).toNat < 16 ∧ bit 0x02 1 = true ∧ bit 0x04 1 = false ∧
    bit 0x04 2 = true ∧ (4 : Byte) ∉ stopTypes State.reset.cfg ∧
    (3 : Byte) ∈ stopTypes State.reset.cfg ∧
    { State.reset with needResync := true }.needResync = true ∧ State.reset.needResync = false ∧
    (2 : Byte) ≠ 0 ∧ (2 : Byte) ≠ 1 := by decide

theorem test_hyp_EncInvBuildsTheRequest :
    WellFormed (.encInv 0 0x0D (some []) (some ⟨3, 0xFFFFFFFF, 0xFFFF⟩)) ∧ (0x0D : Byte).toNat < 16 ∧
    bit 0x0D 1 = false ∧ (3 : Byte) ∈ stopTypes State.reset.cfg ∧
    0x31 ∈ State.reset.cfg.validCmds ∧ State.reset.needResync = false ∧ State.reset.seq = 0 ∧
    within State.reset.cfg.txFrameMax 11 = true ∧
    within { Params.reference with txFrameMax := some 10 }.txFrameMax 11 = false := by decide

theorem test_hyp_RequestByteLayouts : configOk Params.reference = true ∧ bit 0x00 6 = false ∧
    bit 0xBF 6 = false := by decide

theorem test_hyp_RxPushAppends : within (some 4) (([0x40, 0x00] : Bytes).length + 2) = true ∧
    within (some 4) (([0x40, 0x00] : Bytes).length + 3) = false ∧ State.reset.await = false ∧
    ∃ t, exec (.rxPush [0x00]) State.reset = .next t :=
  ⟨by decide, by decide, by decide, _, rfl⟩

theorem test_hyp_SplitPushEqualsOnePush : ∃ t, exec (.rxPush [0x40]) State.reset = .next t :=
  ⟨_, rfl⟩

theorem test_hyp_DecodeEnvReadsTheEnvelope : (received [0x40] 0).rxbuf.length < 2 ∧
    (received [0x40, 0x00] 0).rxbuf = 0x40 :: 0x00 :: [] := by decide

/-- One state per clause: nothing outstanding, a short frame, wrong classes, chaining, the sequence bit, no command code, another command code, no codec. -/
theorem test_hyp_DecodeRespChecksInOrder :
    State.reset.await = false ∧ (awaiting 0x01 [0x40]).rxbuf.length < 2 ∧
    (awaiting 0x01 [0x40, 0x00]).await = true ∧ (awaiting 0x01 []).pendKind = .iBlock ∧
    { awaiting 0x01 [] with pendKind := .sBlock }.pendKind = .sBlock ∧
    pcbKind Params.reference 0x00 ≠ .sBlock ∧ pcbKind Params.reference 0x80 ≠ .iBlock ∧
    pcbKind Params.reference 0x60 = .iBlock ∧ bit 0x60 5 = true ∧
    pcbKind Params.reference 0x40 = .iBlock ∧ bit 0x40 5 = false ∧
    { Params.reference with seqCheck := .error }.seqCheck = .error ∧
    bit 0x00 6 ≠ ((awaiting 0x01 []).pendSeq ^^ Params.reference.respSeqToggle) ∧
    bit 0x40 6 = ((awaiting 0x01 []).pendSeq ^^ Params.reference.respSeqToggle) ∧
    (0x31 : Byte) ≠ (awaiting 0x01 []).pendCmd ∧
    (0x20 : Byte) = (awaiting 0x20 []).pendCmd ∧ (0x20 : Byte) ≠ 0x01 ∧ (0x20 : Byte) ≠ 0x31 := by
  decide

/-- The last two clauses: a configuration response of a wrong length, an inventory response whose parameter field is empty, and one cut inside its record. -/
theorem test_hyp_DecodeRespChecksInOrder_params :
    ((awaiting 0x01 []).pendCmd = 0x01 ∧ decRscb [0x01, 0xAA] 3 = .error ⟨.cfgBytes, 4⟩) ∧
    ((awaiting 0x31 []).pendCmd = 0x31 ∧ decInv [0x01] [] 3 = .error ⟨.field, 3⟩ ∧
      decInv [0x01] [0x00, 0x01, 0x00, 0x01, 0x01] 3 = .error ⟨.field, 8⟩) :=
  ⟨⟨rfl, rfl⟩, rfl, rfl, rfl⟩

theorem test_hyp_DecodeRespErrorEpilogue :
    ∃ t, exec .decodeResp State.reset = .next t ∧ t.status.err ≠ .none := ⟨_, rfl, by decide⟩

theorem test_hyp_DecodeRespReadsConfiguration :
    let s := awaiting 0x01 [0x40, 0x00, 0x01, 0x00]
    s.await = true ∧ s.pendKind = .iBlock ∧ s.pendCmd = 0x01 ∧ pcbKind s.cfg 0x40 = .iBlock ∧
    bit 0x40 5 = false ∧ s.cfg.seqCheck ≠ .error ∧ s.rxbuf = 0x40 :: 0x00 :: 0x01 :: 0x00 :: [] ∧
    ([] : Bytes).length = 14 * (0x00 : Byte).toNat ∧
    ([0xAA] : Bytes).length ≠ 14 * (0x00 : Byte).toNat ∧
    (awaiting 0x01 [0x40, 0x00, 0x01]).rxbuf = [0x40, 0x00, 0x01] := by decide

theorem test_hyp_DecodeRespReadsInventory :
    let recs : List (Byte × TagRecord) :=
      [(0xFF, ⟨none, none, none, none, none⟩), (0, ⟨some 2, some 1, some 5, some [], some ⟨9, [0, 0]⟩⟩)]
    let s := awaiting 0x31 (0x40 :: 0x00 :: 0x31 :: invParams 0 2 recs)
    s.await = true ∧ s.pendKind = .iBlock ∧ s.pendCmd = 0x31 ∧ pcbKind s.cfg 0x40 = .iBlock ∧
    bit 0x40 5 = false ∧ s.cfg.seqCheck ≠ .error ∧ recs.length ≤ 255 ∧
    (∀ r ∈ recs, tagOk s.cfg.knownAirProtocols r.2 = true) ∧
    s.rxbuf = [0x40, 0x00, 0x31, 0x00, 0x02, 0x00, 0x02, 0x60,
      0x1F, 0x02, 0x01, 0x05, 0x00, 0x09, 0x00, 0x00, 0x00] := by decide

theorem test_hyp_DecodeRespAcknowledgesResync :
    let s := { awaiting 0x01 [0xC0, 0x00] with pendKind := .sBlock }
    s.await = true ∧ s.pendKind = .sBlock ∧ pcbKind s.cfg 0xC0 = .sBlock ∧
    s.rxbuf = 0xC0 :: 0x00 :: [] := by decide

theorem test_hyp_SequenceBitCrossCheck :
    (∀ b ∈ ([0x00, 0x40] : Bytes), ∀ m ∈ [SeqCheck.ignore, .flag, .error],
      nextIs (exec .decodeResp { awaiting 0x01 [b, 0x00, 0x01, 0x00] with
        cfg := { Params.reference with seqCheck := m } }) (fun t =>
          (t.status.err == .none) == (m != .error || b == 0x40)) = true) ∧
    pcbKind Params.reference 0x00 = .iBlock ∧ bit 0x00 5 = false ∧
    bit 0x00 6 ≠ ((awaiting 0x01 []).pendSeq ^^ Params.reference.respSeqToggle) := by decide

theorem test_hyp_ChainingFailsAndRidIsFlagged :
    (∃ t, exec .decodeResp (awaiting 0x01 [0x60, 0x00]) = .next t) ∧
    pcbKind Params.reference 0x60 = .iBlock ∧ bit 0x60 5 = true ∧
    (∃ t, exec .decodeResp (awaiting 0x01 [0x40, 0x09, 0x01, 0x00]) = .next t ∧
      t.status.err = .none ∧ t.ridMismatch = true) :=
  ⟨⟨_, rfl⟩, by decide, by decide, _, rfl, by decide, by decide⟩

theorem test_hyp_TagPresenceFollowsTheFlags :
    ∃ t c', decTag [0x01] ⟨[0x1F, 0x02, 0x01, 0x05, 0x01, 0x77, 0x04, 0x00, 0x0F], 7, 0⟩
      = .ok (t, c') ∧ c'.pos = 9 := ⟨_, _, rfl, rfl⟩

theorem test_hyp_InventoryConsumesEveryByte :
    (∃ r, decInv [0x01] [0x00, 0x01, 0x00, 0x01, 0x00] 3 = .ok r) ∧
    (let recs : List (Byte × TagRecord) := [(0, ⟨none, none, none, none, none⟩)]
     recs.length ≤ 255 ∧ (∀ r ∈ recs, tagOk [0x01] r.2 = true) ∧
      0 < (invParams 0 1 recs).length ∧ 4 < (invParams 0 1 recs).length) :=
  ⟨⟨_, rfl⟩, by decide⟩

theorem test_hyp_UnknownProtocolIsReported : bit 0x02 1 = true ∧ bit 0x03 1 = true ∧
    ([] : Bytes).length = (bit 0x02 0).toNat ∧ ([0x05] : Bytes).length = (bit 0x03 0).toNat ∧
    (0x07 : Byte) ∉ ([0x01] : Bytes) := by decide

/-- The hypotheses of the second clause, with VT11's record as the first and after a good one; then VT11 itself. -/
theorem test_hyp_UnknownProtocolIsReported_status :
    (∀ recs ∈ ([[], [(0x60, ⟨some 2, some 1, none, none, none⟩)]] : List (List (Byte × TagRecord))),
      let good := recs.flatMap (fun r => tagWire r.1 r.2)
      let s := awaiting 0x31 (0x40 :: 0x00 :: 0x31 :: 0x00 :: (le16 0x0001 ++ 0x02 ::
        (good ++ 0x02 :: ([] ++ 0x07 :: []))))
      s.await = true ∧ s.pendKind = .iBlock ∧ s.pendCmd = 0x31 ∧ pcbKind s.cfg 0x40 = .iBlock ∧
      bit 0x40 5 = false ∧ s.cfg.seqCheck ≠ .error ∧
      (∀ r ∈ recs, tagOk s.cfg.knownAirProtocols r.2 = true) ∧
      recs.length < (0x02 : Byte).toNat ∧ bit 0x02 1 = true ∧
      ([] : Bytes).length = (bit 0x02 0).toNat ∧ (0x07 : Byte) ∉ s.cfg.knownAirProtocols) ∧
    nextIs (exec .decodeResp (awaiting 0x31 [0x40, 0x00, 0x31, 0x00, 0x01, 0x00, 0x01, 0x02, 0x07]))
      (fun t => raised .unknownProtocol 0x07 8 t && dropped t) = true := by decide

theorem test_hyp_EmbeddedCommandFails : bit 0x01 7 = false ∧
    (∃ t c', decTag [0x01] ⟨[0x01, 0x05], 8, 0⟩ = .ok (t, c')) ∧
    (∃ f, decTag [0x01] ⟨[0x01], 8, 0⟩ = .error f) ∧
    ([0x01, 0x05] : Bytes)[0]? = some 0x01 :=
  ⟨by decide, ⟨_, _, rfl⟩, ⟨_, rfl⟩, rfl⟩

theorem test_hyp_CurSetMovesTheCursor :
    (3 : Word).toNat ≤ (received [0x0A, 0x0B, 0x0C] 0).rxbuf.length ∧
    (received [0x0A, 0x0B, 0x0C] 0).rxbuf.length < (4 : Word).toNat := by decide

theorem test_hyp_CurRdReadsBytes :
    (received [0x0A, 0x0B, 0x0C] 1).rxbuf = [0x0A] ++ [0x0B, 0x0C] ++ [] ∧
    ([0x0A] : Bytes).length = 1 ∧ ([0x0B, 0x0C] : Bytes).length = (2 : Half).toNat ∧
    (received [0x0A, 0x0B, 0x0C] 1).rxbuf.length
      < (received [0x0A, 0x0B, 0x0C] 1).curPos + (3 : Half).toNat := by decide

theorem test_hyp_CurRdReadsLowByteFirst :
    let s := received [0x78, 0x56, 0x34, 0x12] 0
    (s.rxbuf[s.curPos]? = some 0x78 ∧ s.rxbuf[s.curPos + 1]? = some 0x56 ∧
      s.rxbuf[s.curPos + 2]? = some 0x34 ∧ s.rxbuf[s.curPos + 3]? = some 0x12) ∧
    (received [0x78] 1).rxbuf.length < (received [0x78] 1).curPos + 1 ∧
    (received [0x78] 0).rxbuf.length < (received [0x78] 0).curPos + 2 ∧
    (received [0x78] 0).rxbuf.length < (received [0x78] 0).curPos + 4 := by decide

theorem test_hyp_CursorReadLaws :
    (∃ x c1 y c2, readN 1 ⟨[0x0A, 0x0B], 0, 0⟩ = .ok (x, c1) ∧ readN 1 c1 = .ok (y, c2)) ∧
    (∃ t, exec (.curRd 1) State.reset = .next t ∧ t.status.err ≠ .none) ∧
    (∃ t, exec (.curSet 1) State.reset = .next t ∧ t.status.err ≠ .none) ∧
    (∃ t, exec .decodeResp (awaiting 0x01 [0x40]) = .next t ∧ t.status.err = .truncated) :=
  ⟨⟨_, _, _, _, rfl, rfl⟩, ⟨_, rfl, by decide⟩, ⟨_, rfl, by decide⟩, ⟨_, rfl, by decide⟩⟩

theorem test_hyp_ReadingOpsFrame : (∃ t, exec .curRd8 (received [0x0A] 0) = .next t) ∧
    (∃ t, exec (.curSet 1) (received [0x0A] 0) = .next t) ∧
    (∃ t, exec .decodeEnv (received [0x40, 0x00] 0) = .next t) ∧
    (∃ t, exec (.rxPush [0x40]) State.reset = .next t) :=
  ⟨⟨_, rfl⟩, ⟨_, rfl⟩, ⟨_, rfl⟩, ⟨_, rfl⟩⟩

theorem test_hyp_BuildOpsFrame : isBuild (.encRscb 0 0 0) = true ∧
    ∃ t, exec (.encRscb 0 0 0) State.reset = .next t := ⟨rfl, _, rfl⟩

theorem test_hyp_DecodeRespFrame : ∃ t,
    exec .decodeResp (awaiting 0x01 [0x40, 0x00, 0x01, 0x00]) = .next t ∧ t.resKind = .rscb ∧
      (t.resKind ≠ .inv ∨ t.status.err ≠ .none) := ⟨_, rfl, by decide, by decide⟩

theorem test_hyp_ErrorsArePrecise :
    (∃ t, exec (.encRscb 0 0x40 0) State.reset = .next t ∧ t.status.err ≠ .none) ∧
    (∃ t, exec .timeout (awaiting 0x01 []) = .next t ∧ t.status.err ≠ .none) :=
  ⟨⟨_, rfl, by decide⟩, ⟨_, rfl, by decide⟩⟩

theorem test_hyp_ResValidTellsSuccess :
    (∃ t, exec .timeout State.reset = .next t ∧ t.status.err = .none) ∧
    (∃ t, exec .timeout (awaiting 0x01 []) = .next t ∧ t.status.err ≠ .none) :=
  ⟨⟨_, rfl, by decide⟩, ⟨_, rfl, by decide⟩⟩

theorem test_hyp_SeqTransitionTable :
    (∃ t, exec (.encRscb 0 0 0) State.reset = .next t ∧ t.status.err = .none ∧ t.seq = 1) ∧
    (∃ t, exec (.encRscb 0 0x40 0) State.reset = .next t ∧ t.status.err ≠ .none) ∧
    (∃ t, exec (.forceSeq 0xFF) State.reset = .next t ∧ t.seq = 0xFF) ∧
    isBuild .timeout = false ∧ setsSeq .timeout = false ∧
    (∃ t, step (ported [.reset]) = .next t) :=
  ⟨⟨_, rfl, by decide, by decide⟩, ⟨_, rfl, by decide⟩, ⟨_, rfl, by decide⟩, rfl, rfl, ⟨_, rfl⟩⟩

theorem test_hyp_SequenceBitsAlternate :
    let ops : List Instr := [.encRscb 0 0 0, .rxPush [0x40], .encRscb 0 0x40 0, .encRscb 0 0 0]
    configOk State.reset.cfg = true ∧ SeqInv State.reset ∧ (∀ i ∈ ops, setsSeq i = false) ∧
      buildCount ops State.reset = 2 ∧ ∃ t, execAll ops State.reset = .next t :=
  ⟨by decide, by decide, by decide, by decide, _, rfl⟩

theorem test_hyp_NoFrameUntilResync :
    let s := { State.reset with needResync := true }
    let ops : List Instr := [.encRscb 0 0 0, .decodeResp, .abandon]
    s.needResync = true ∧ (∀ i ∈ ops, clearsNeedResync i = false) ∧
      ∃ t, execAll ops s = .next t := ⟨rfl, by decide, _, rfl⟩

theorem test_hyp_NeedResyncIsSticky :
    (clearsNeedResync (.resync 0) = true ∧ ∃ t, exec (.resync 0) State.reset = .next t) ∧
    (clearsNeedResync .abandon = false ∧ ∃ t, exec .abandon (awaiting 0x01 []) = .next t) :=
  ⟨⟨rfl, _, rfl⟩, rfl, _, rfl⟩

theorem test_hyp_AwaitTransitions :
    (∃ t, exec (.encRscb 0 0 0) State.reset = .next t ∧ t.status.err = .none ∧ t.await = true) ∧
    (∃ t, exec (.resync 0) { State.reset with cfg := { Params.reference with resyncAwaits := true } }
      = .next t ∧ t.await = true) ∧
    (∃ t, exec .abandon (awaiting 0x01 []) = .next t ∧ t.await = false) ∧
    (∃ t, exec .decodeEnv (awaiting 0x01 []) = .next t ∧ t.await = true) :=
  ⟨⟨_, rfl, by decide, by decide⟩, ⟨_, rfl, by decide⟩, ⟨_, rfl, by decide⟩, ⟨_, rfl, by decide⟩⟩

theorem test_hyp_CallerErrIsSticky :
    (∃ t, exec (.encRscb 0 0 0) (awaiting 0x01 []) = .next t ∧ t.callerErr = true) ∧
    (∃ t, exec .openSession { State.reset with callerErr := true } = .next t ∧ t.callerErr = false) ∧
    (∃ t, step (ported [.reset]) = .next t) :=
  ⟨⟨_, rfl, by decide⟩, ⟨_, rfl, by decide⟩, ⟨_, rfl⟩⟩

theorem test_hyp_DisciplinedHostIsNotFaulty :
    let ops : List Instr := [.encRscb 0 0 0, .rxPush [0x40, 0x00, 0x01, 0x00], .decodeResp, .encRscb 0 0 0]
    runFaulty State.reset = false ∧ obeysAll ops State.reset = true ∧
      (∃ t, execAll ops State.reset = .next t) ∧
      { State.reset with callerErr := true }.callerErr = true ∧
      { State.reset with callerErrPast := true }.callerErrPast = true ∧
      State.reset.callerErr = false ∧ State.reset.callerErrPast = false :=
  ⟨rfl, by decide, ⟨_, rfl⟩, rfl, rfl, rfl, rfl⟩

theorem test_hyp_RunFaultIsNeverCleared :
    (∃ t, exec (.encRscb 0 0 0) (awaiting 0x01 []) = .next t ∧ runFaulty t = true) ∧
    (∃ t, exec .openSession { State.reset with callerErr := true } = .next t) ∧
    (∃ t, step { ported [.reset] with callerErr := true } = .next t) ∧
    runFaulty { State.reset with callerErr := true } = true ∧
    (∃ t log, runOps [[0x01]] { State.reset with callerErr := true } = .next (t, log)) :=
  ⟨⟨_, rfl, by decide⟩, ⟨_, rfl⟩, ⟨_, rfl⟩, rfl, ⟨_, _, rfl⟩⟩

theorem test_hyp_FramesOnlyFromSuccessfulOps :
    ∃ t, exec (.encRscb 0 0 0) State.reset = .next t ∧ t.tx = [[0x00, 0x00, 0x01, 0x00, 0x00]] :=
  ⟨_, rfl, by decide⟩

theorem test_hyp_StepKeepsTheInvariant :
    Inv (ported [.op [0x04, 0x00, 0x85, 0x03]]) ∧
      ∃ t, step (ported [.op [0x04, 0x00, 0x85, 0x03]]) = .next t ∧ t.await = true :=
  ⟨by decide, _, rfl, by decide⟩

theorem test_hyp_SeqStaysLegalWithoutForceSeq :
    SeqInv (ported [.op [0x04, 0x00, 0x85, 0x03]]) ∧
      (∃ t, step (ported [.op [0x04, 0x00, 0x85, 0x03]]) = .next t) ∧
      ∀ v rest, (ported [.op [0x04, 0x00, 0x85, 0x03]]).port ≠ .op [0x0B, v] :: rest :=
  ⟨by decide, ⟨_, rfl⟩, by simp [ported]⟩

theorem test_hyp_OpsAreRefusedOnlyPastACapacity :
    State.reset.cfg.txFrameMax = none ∧ State.reset.cfg.rxBufMax = none ∧
    exec (.resync 0) { State.reset with cfg := { Params.reference with txFrameMax := some 1 } }
      = .refused .txFrameTooLong ∧
    exec (.encRscb 0 0 0) { State.reset with cfg := { Params.reference with txFrameMax := some 4 } }
      = .refused .txFrameTooLong ∧
    exec (.encInv 0 0 none none)
      { State.reset with cfg := { Params.reference with txFrameMax := some 3 } }
      = .refused .txFrameTooLong := ⟨rfl, rfl, rfl, rfl, rfl⟩

theorem test_hyp_StatusReadShowsNamedResultsOnly :
    ({ State.reset with resValid := true, resKind := .tx }.resValid = true ∧
      { State.reset with resValid := true, resKind := .tx }.resKind = .tx) ∧
    State.reset.resValid = false := by decide

end Sys2Proof.Tests
end

section
/-! Proofs for the statements of 00_scope.md: taking an op from the command port. -/

namespace Sys2Proof.Machine

/-- The op branch of `step`, in the form that follows from what is on the port. -/
theorem step_eq_exec_takeOp {s : State} {w : Bytes} {rest : List Input} {i : Instr}
    (hc : configOk s.cfg = true) (hp : s.port = .op w :: rest) (hd : decode w = .ok i) :
    step s = exec i (takeOp s) := by
  simp only [step, fetch_ok hc hp hd]

/-- Settles O8: `fetch` finds the decoded op, and `takeOp` takes exactly its word. -/
theorem stepRunsTheDecodedOp : Obligations.StepRunsTheDecodedOp := by
  intro s w rest i hc hp hd
  rw [step_eq_exec_takeOp hc hp hd, takeOp_eq hp]

end Sys2Proof.Machine
end

section
/-! Proofs for the statements of 10_state.md: the invariant every step keeps, the flags of the exchange, reset, and the host's status read. -/

namespace Sys2Proof.Machine

open Sys2Proof.Config

/-! ### The invariant, one register group at a time -/

/-- RXBUF cleared meets R30 and R31 under every capacity. -/
theorem rxInv_of_cleared {s : State} (hb : s.rxbuf = []) (hp : s.curPos = 0) : RxInv s := by
  refine ⟨by simp [hp], ?_⟩
  rw [hb]
  unfold within
  split <;> simp

theorem statusInv_raise (r : Reason) (p : Nat) (s : State) : StatusInv (raise r p s) := by
  simp [StatusInv]

theorem statusInv_okWith (k : ResKind) (s : State) : StatusInv (okWith k s) := by
  simp [StatusInv]

/-- 30_encoding.md R68: the frame a RESYNC emits. -/
theorem frameOk_resyncFrame (rid : Byte) {s : State} (hw : within s.cfg.txFrameMax 2 = true) :
    frameOk s.cfg (resyncFrame rid s) = true := by
  simp [frameOk, resyncFrame, hw]

/-- 30_encoding.md R65, R67: the frame of a build that meets no error. -/
theorem frameOk_requestFrame {rid : Byte} {info : Bytes} {s : State}
    (he : buildError info s = none)
    (hw : within s.cfg.txFrameMax (requestFrame rid info s).length = true) :
    frameOk s.cfg (requestFrame rid info s) = true := by
  obtain ⟨cmd, rest, rfl, hc, -, -⟩ := buildError_eq_none.mp he
  have hp : requestPcb s.cfg (seqBit s) = requestPcb s.cfg false ∨
      requestPcb s.cfg (seqBit s) = requestPcb s.cfg true := by
    cases seqBit s <;> simp
  have hf : requestFrame rid (cmd :: rest) s = requestPcb s.cfg (seqBit s) :: rid :: cmd :: rest :=
    rfl
  rw [hf] at hw ⊢
  simp only [frameOk, hw, Bool.true_and, Bool.and_eq_true, Bool.or_eq_true, beq_iff_eq]
  exact ⟨hp, List.contains_iff_mem.mpr hc⟩

/-- An emitted frame joins the TX stream and is TXLAST (20_memory.md R49). -/
theorem txInv_of_emitted {s t : State} {f : Bytes} (hs : TxInv s) (hf : frameOk s.cfg f = true)
    (hc : t.cfg = s.cfg) (hx : t.tx = s.tx ++ [f]) (hl : t.txLast = f) : TxInv t := by
  obtain ⟨hall, -⟩ := hs
  rw [TxInv, hc, hx, hl]
  refine ⟨fun g hg => ?_, .inr hf⟩
  obtain hg | hg := List.mem_append.mp hg
  · exact hall g hg
  · rwa [List.mem_singleton.mp hg]

/-- 10_state.md R37 to R39: what the decoders accept has the shapes of the result registers. -/
theorem resultInv_writeResponse {s : State} {r : Response} {mm : Bool} {rid : Byte}
    (hs : ResultInv s) (hr : decodeResponse s = .ok (r, mm, rid)) :
    ResultInv (writeResponse r s) := by
  obtain ⟨hrscb, hcount, htags⟩ := hs
  obtain ⟨-, pcb, info, -, ⟨-, h⟩ | ⟨-, h⟩⟩ := decodeResponse_eq_ok.mp hr
  · obtain ⟨-, rfl, -⟩ := decodeSBlock_eq_ok.mp h
    exact ⟨hrscb, hcount, htags⟩
  · obtain ⟨-, -, -, -, p, -, h⟩ := decodeIBlock_eq_ok.mp h
    obtain ⟨-, h⟩ | ⟨-, h⟩ := decodeParams_eq_ok.mp h
    · obtain ⟨n, data, -, hl, rfl⟩ := decRscb_eq_ok.mp h
      exact ⟨hl, hcount, htags⟩
    · obtain ⟨stop, total, count, tags, _, _, _, _, -, -, -, ht, -, rfl⟩ := decInv_eq_ok.mp h
      obtain ⟨hn, -, hok⟩ := decTags_size ht
      exact ⟨hrscb, hn, hok⟩

/-! ### Every op keeps each group: the cases named are the ones that write it -/

theorem exec_keeps_rxInv {i : Instr} {s t : State} (hs : RxInv s) (h : exec i s = .next t) :
    RxInv t := by
  obtain ⟨hpos, hcap⟩ := hs
  cases exec_effect h with
  | opened | resynced | timedOut | abandoned | built | respRead | respFailed =>
    exact rxInv_of_cleared rfl rfl
  | pushed bytes _ hw => exact ⟨by simp; omega, by simpa using hw⟩
  | curSet p _ hp => exact ⟨hp, hcap⟩
  | curRead _ _ p d _ _ hp => exact ⟨hp, hcap⟩
  | _ => exact ⟨hpos, hcap⟩

/-- Every op ends by `raise` or by `ok`, so it meets the group from any state (60_exceptions.md R140, R141). -/
theorem exec_statusInv {i : Instr} {s t : State} (h : exec i s = .next t) :
    StatusInv t := by
  cases exec_effect h with
  | timedOut | notBuilt | envFailed | respFailed | curSetFailed | curFailed =>
    exact statusInv_raise _ _ _
  | _ => exact statusInv_okWith _ _

theorem exec_keeps_resultInv {i : Instr} {s t : State} (hs : ResultInv s)
    (h : exec i s = .next t) : ResultInv t := by
  cases exec_effect h with
  | opened => simp [ResultInv]
  | resynced => simpa [ResultInv, resynced] using hs
  | respRead _ r mm rid hr => exact resultInv_writeResponse hs hr
  | _ => exact hs

theorem exec_keeps_exchangeInv {i : Instr} {s t : State} (hs : ExchangeInv s)
    (h : exec i s = .next t) : ExchangeInv t := by
  cases exec_effect h with
  | opened | timedOut | abandoned | respRead | respFailed => exact nofun
  | resynced => intro ha; simp_all [resynced]
  | built _ _ rid info _ he _ =>
    obtain ⟨cmd, rest, rfl, hc, hn, -⟩ := buildError_eq_none.mp he
    exact fun _ => ⟨hn, fun _ => List.contains_iff_mem.mpr hc, nofun⟩
  | _ => exact hs

theorem exec_keeps_txInv {i : Instr} {s t : State} (hs : TxInv s) (h : exec i s = .next t) :
    TxInv t := by
  cases exec_effect h with
  | opened => obtain ⟨hall, -⟩ := hs; exact ⟨hall, .inl rfl⟩
  | resynced rid _ hw =>
    exact txInv_of_emitted hs (frameOk_resyncFrame rid hw) (exec_cfg h) (by simp [resynced]) rfl
  | built _ _ rid info _ he hw =>
    exact txInv_of_emitted hs (frameOk_requestFrame he hw) rfl rfl rfl
  | respRead _ r => simpa [TxInv] using hs
  | _ => exact hs

theorem exec_keeps_inv {i : Instr} {s t : State} (hs : Inv s) (h : exec i s = .next t) :
    Inv t := by
  obtain ⟨hrx, -, hres, hex, htx⟩ := hs
  exact ⟨exec_keeps_rxInv hrx h, exec_statusInv h, exec_keeps_resultInv hres h,
    exec_keeps_exchangeInv hex h, exec_keeps_txInv htx h⟩

/-! ### The other inputs of a step -/

theorem inv_raise {s : State} (hs : Inv s) (r : Reason) (p : Nat) : Inv (raise r p s) := by
  obtain ⟨hrx, -, hres, hex, htx⟩ := hs
  exact ⟨hrx, statusInv_raise r p s, hres, hex, htx⟩

theorem inv_resetWith (c : Params) : Inv (State.resetWith c) :=
  ⟨rxInv_of_cleared rfl rfl, by simp [StatusInv], by simp [ResultInv], nofun, by simp [TxInv]⟩

/-- The reset input keeps the TX stream and brings the registers to the table of R44. -/
theorem inv_resetInput {s : State} (hs : ∀ f ∈ s.tx, frameOk s.cfg f = true) :
    Inv (resetInput s) := by
  obtain ⟨hrx, hst, hres, hex, -⟩ := inv_resetWith s.cfg
  exact ⟨hrx, hst, hres, hex, hs, .inl rfl⟩

/-- Settles O53, by the four things a step can find on the port. -/
theorem stepKeepsTheInvariant : Obligations.StepKeepsTheInvariant := by
  intro s t hs h
  have htake : Inv (takeOp s) := hs
  obtain ⟨-, ⟨-, rfl⟩ | ⟨_, -, rfl⟩ | ⟨_, _, e, -, -, rfl⟩ | ⟨_, _, i, -, -, he⟩⟩ := step_next h
  · exact ⟨hs, rfl⟩
  · obtain ⟨-, -, -, -, htx, -⟩ := hs
    exact ⟨inv_resetInput (s := takeInput s) htx, rfl⟩
  · exact ⟨inv_raise htake _ _, rfl⟩
  · exact ⟨exec_keeps_inv htake he, (exec_cfg he).trans (takeOp_cfg s)⟩

/-- Settles O54. -/
theorem resetMeetsTheInvariant : Obligations.ResetMeetsTheInvariant :=
  ⟨fun c => ⟨inv_resetWith c, .inl rfl⟩, inv_resetWith _⟩

/-! ### SEQ -/

theorem seqInv_of_bit (b : Bool) :
    (BitVec.ofBool b).setWidth 8 = (0 : Byte) ∨ (BitVec.ofBool b).setWidth 8 = (1 : Byte) := by
  cases b <;> decide

/-- The words of FORCE_SEQ (30_encoding.md R79). -/
theorem decode_eq_forceSeq {w : Bytes} {v : Byte} (h : decode w = .ok (.forceSeq v)) :
    w = [0x0B, v] := by
  cases w with
  | nil => cases h
  | cons op body =>
    rw [decode_cons, decodeOp] at h
    split at h
    case h_11 hop =>
      obtain ⟨a, rfl, e⟩ := decodeH1_eq_ok.mp h
      cases e
      rw [show op = 0x0B from BitVec.eq_of_toNat_eq hop]
    all_goals
      simp [decodeH0_eq_ok, decodeH1_eq_ok, decodeH2_eq_ok, decodeH3_eq_ok, decodeH4_eq_ok,
        decodeH5_eq_ok, decodeH6_eq_ok, decodeH7_eq_ok] at h

/-- 10_state.md R21: no op but FORCE_SEQ gives SEQ another value than 0 or 1. -/
theorem exec_keeps_seqInv {i : Instr} {s t : State} (hs : SeqInv s) (hi : ∀ v, i ≠ .forceSeq v)
    (h : exec i s = .next t) : SeqInv t := by
  cases exec_effect h with
  | opened => exact .inl rfl
  | resynced => exact .inl (by simp [resynced])
  | forced v => exact absurd rfl (hi v)
  | built _ _ rid info => exact seqInv_of_bit _
  | respRead => simpa [SeqInv] using hs
  | _ => exact hs

/-- Settles O55: the only op that breaks the bound is read from a FORCE_SEQ word. -/
theorem seqStaysLegalWithoutForceSeq : Obligations.SeqStaysLegalWithoutForceSeq := by
  intro s t hs h hp
  obtain ⟨-, ⟨-, rfl⟩ | ⟨_, -, rfl⟩ | ⟨_, _, _, -, -, rfl⟩ | ⟨w, rest, i, hw, hd, he⟩⟩ := step_next h
  · exact hs
  · exact .inl rfl
  · exact hs
  · refine exec_keeps_seqInv (s := takeOp s) hs ?_ he
    rintro v rfl
    exact hp v rest (decode_eq_forceSeq hd ▸ hw)

/-! ### NEED_RESYNC -/

/-- 10_state.md R28: RESYNC and OPEN_SESSION clear NEED_RESYNC. -/
theorem exec_needResync_of_clears {i : Instr} {s t : State} (h : exec i s = .next t)
    (hi : clearsNeedResync i = true) : t.needResync = false := by
  cases i with
  | openSession => cases h; rfl
  | resync rid => obtain ⟨-, rfl⟩ := resync_next.mp h; simp [resynced]
  | _ => cases hi

theorem needResync_iff_of_noOther {i : Instr} {s t : State} (hi : NoOther i)
    (hk : t.needResync = s.needResync) :
    t.needResync = true ↔
      s.needResync = true ∨ (i = .timeout ∧ s.await = true) ∨ (i = .abandon ∧ s.await = true) ∨
        (i = .decodeResp ∧ t.status.err ≠ .none) := by
  simp [hk, hi.timeout, hi.abandon, hi.decodeResp]

/-- 10_state.md R28: the ops that set NEED_RESYNC. -/
theorem exec_needResync_iff {i : Instr} {s t : State} (h : exec i s = .next t)
    (hi : clearsNeedResync i = false) :
    t.needResync = true ↔
      s.needResync = true ∨ (i = .timeout ∧ s.await = true) ∨ (i = .abandon ∧ s.await = true) ∨
        (i = .decodeResp ∧ t.status.err ≠ .none) := by
  cases exec_effect h with
  | opened | resynced => cases hi
  | timedOut _ ha | notAwaiting _ ha => simp [ha]
  | abandoned => simp
  | built _ _ _ _ hb | notBuilt _ _ _ hb =>
    exact needResync_iff_of_noOther (build_noOther hb).2 rfl
  | curRead _ _ _ _ hc | curFailed _ _ _ _ hc =>
    exact needResync_iff_of_noOther (curRead_noOther hc).2 rfl
  | _ => simp

/-- Settles O48. -/
theorem needResyncIsSticky : Obligations.NeedResyncIsSticky :=
  fun _ _ _ h => ⟨exec_needResync_of_clears h, exec_needResync_iff h⟩

/-! ### AWAIT -/

theorem build_await {i : Instr} (hi : isBuild i = true) {s t : State} (h : exec i s = .next t)
    (hok : t.status.err = .none) : t.await = true := by
  obtain ⟨r, rfl⟩ | ⟨rid, info, -, -, rfl⟩ := build_next hi h
  · exact absurd hok (raise_err_ne_none r 0 s)
  · rfl

theorem resync_await {rid : Byte} {s t : State} (h : exec (.resync rid) s = .next t) :
    t.await = s.cfg.resyncAwaits := by
  obtain ⟨-, rfl⟩ := resync_next.mp h
  simp [resynced]

/-- 10_state.md R23: the ops that end the exchange. -/
theorem exec_clears_await {i : Instr} {s t : State} (h : exec i s = .next t)
    (hi : i = .decodeResp ∨ i = .timeout ∨ i = .abandon ∨ i = .openSession) :
    t.await = false := by
  obtain rfl | rfl | rfl | rfl := hi
  · obtain ⟨f, -, rfl⟩ | ⟨r, mm, rid, -, rfl⟩ := decodeResp_next.mp h <;> rfl
  · obtain ⟨-, rfl⟩ | ⟨ha, rfl⟩ := timeout_next.mp h
    · rfl
    · exact ha
  · cases h; rfl
  · cases h; rfl

/-- 10_state.md R23: every other op, and a build that raises, leaves AWAIT. -/
theorem exec_keeps_await {i : Instr} {s t : State} (h : exec i s = .next t)
    (hd : i ≠ .decodeResp) (ht : i ≠ .timeout) (ha : i ≠ .abandon) (ho : i ≠ .openSession)
    (hr : ∀ rid, i ≠ .resync rid) (hb : isBuild i = false ∨ t.status.err ≠ .none) :
    t.await = s.await := by
  cases exec_effect h with
  | opened => exact absurd rfl ho
  | resynced rid => exact absurd rfl (hr rid)
  | timedOut | notAwaiting => exact absurd rfl ht
  | abandoned => exact absurd rfl ha
  | respRead | respFailed => exact absurd rfl hd
  | built _ _ rid info hi =>
    obtain hn | hn := hb
    · exact absurd hi (by simp [hn])
    · exact absurd rfl hn
  | _ => rfl

/-- Settles O49. -/
theorem awaitTransitions : Obligations.AwaitTransitions :=
  fun _ _ _ h => ⟨fun hi => build_await hi h, by rintro ⟨rid, rfl⟩; exact resync_await h,
    exec_clears_await h, exec_keeps_await h⟩

/-! ### CALLER_ERR -/

/-- 10_state.md R29: the one thing that sets CALLER_ERR. -/
theorem exec_callerErr_iff {i : Instr} {s t : State} (h : exec i s = .next t)
    (hi : i ≠ .openSession) :
    t.callerErr = true ↔
      s.callerErr = true ∨ (isBuild i = true ∧ t.status.err = .none ∧ s.await = true) := by
  cases exec_effect h with
  | opened => exact absurd rfl hi
  | resynced => simp [resynced, isBuild]
  | built _ _ _ _ hb => simp [built, hb]
  | curRead _ _ _ _ hc | curFailed _ _ _ _ hc => simp [(curRead_noOther hc).1]
  | _ => simp [isBuild]

/-- The step that takes the reset input (70_reset_and_hazards.md R153). -/
theorem step_eq_resetInput {s : State} {rest : List Input} (hc : configOk s.cfg = true)
    (hp : s.port = .reset :: rest) : step s = .next (resetInput (takeInput s)) := by
  simp only [step, fetch_reset hc hp]

/-- Settles O50. -/
theorem callerErrIsSticky : Obligations.CallerErrIsSticky := by
  refine ⟨fun _ _ _ => exec_callerErr_iff, fun s t h => ?_, fun s t rest hp h => ?_⟩
  · cases h; rfl
  · rw [step_eq_resetInput (step_next h).1 hp] at h
    cases h; rfl

/-! ### Reset and the status read -/

/-- Settles O11: `resetInput` writes the table of R44 out, and OPEN_SESSION is that and `ok`. -/
theorem resetAndOpenSessionRestoreTheTable :
    Obligations.ResetAndOpenSessionRestoreTheTable := by
  refine ⟨fun s rest hc hp => ?_, fun s => rfl, fun c => rfl⟩
  rw [step_eq_resetInput hc hp, takeInput_eq hp]
  rfl

theorem hostRead_of_always {r : Reg} (hr : r.access = .always) (s : State) :
    hostRead r s = .next (regValue r s) := by
  rw [hostRead, hr]

theorem hostRead_of_never {r : Reg} (hr : r.access = .never) (s : State) :
    hostRead r s = .refused .notHostReadable := by
  rw [hostRead, hr]

theorem hostRead_of_result {r : Reg} {k : ResKind} (hr : r.access = .result k) (s : State) :
    hostRead r s = if s.resValid ∧ s.resKind = k then .next (regValue r s)
      else .refused .resultNotNamed := by
  rw [hostRead, hr]

/-- Settles O57, from the access rule of each register. -/
theorem statusReadShowsNamedResultsOnly : Obligations.StatusReadShowsNamedResultsOnly := by
  intro s
  refine ⟨fun r hr => hostRead_of_always ?_ s, fun r hr => hostRead_of_never ?_ s,
    fun p hp => ?_⟩
  · revert r; decide
  · revert r; decide
  · have hacc : p.1.access = .result p.2 := by revert p; decide
    rw [hostRead_of_result hacc]
    exact ⟨fun hv hk => if_pos ⟨hv, hk⟩, fun hn => if_neg fun ⟨hv, hk⟩ => hn.elim (by simp [hv]) (· hk)⟩

end Sys2Proof.Machine
end

section
/-! Proofs for the statements of 20_memory.md: the TX stream and TXLAST. -/

namespace Sys2Proof.Machine

/-- 40_frame_codec.md R87: a build without an error appends one frame, which TXLAST then holds. -/
theorem built_tx (rid : Byte) (info : Bytes) (s : State) :
    (built rid info s).tx = s.tx ++ [(built rid info s).txLast] := rfl

/-- 41_sequencer.md R94: RESYNC appends one frame, which TXLAST then holds. -/
theorem resynced_tx (rid : Byte) (s : State) :
    (resynced rid s).tx = s.tx ++ [(resynced rid s).txLast] := by
  simp [resynced]

/-- Settles O52: only an error-free build and RESYNC reach `emitTx`, and both end with `ok(TX)`. -/
theorem framesOnlyFromSuccessfulOps : Obligations.FramesOnlyFromSuccessfulOps := by
  intro i s t h
  cases exec_effect h with
  | resynced rid => exact .inr ⟨resynced_tx rid s, rfl, .inr ⟨rid, rfl⟩⟩
  | built _ _ rid info hi => exact .inr ⟨built_tx rid info s, rfl, .inl hi⟩
  | respRead _ r => exact .inl (writeResponse_tx r s)
  | _ => exact .inl rfl

end Sys2Proof.Machine
end

section
/-! Proofs for the statements of 30_encoding.md about op words: one word for each op, the lengths of words, and what a step does with a word that is no op. -/

namespace Sys2Proof

open Sys2Proof.Machine

/-! ### The decoder accepts exactly the encoder's words -/

theorem toNat_ofNat_length {w : Nat} {b : Bytes} (h : b.length < 2 ^ w) :
    (BitVec.ofNat w b.length).toNat = b.length := by
  rw [BitVec.toNat_ofNat, Nat.mod_eq_of_lt h]

/-- A length field of two bytes that holds the length of `b` is the `le16` of that length, which then fits it. -/
theorem length_eq_u16le {b : Bytes} {l0 l1 : Byte} (h : b.length = (u16le l0 l1).toNat) :
    b.length ≤ 65535 ∧ le16 (BitVec.ofNat 16 b.length) = [l0, l1] := by
  have := (u16le l0 l1).isLt
  refine ⟨by omega, ?_⟩
  rw [h, BitVec.ofNat_toNat, BitVec.setWidth_eq, le16_u16le]

theorem decodeH2_le16 (f : Byte → Bytes → Instr) (rid : Byte) {info : Bytes}
    (h : info.length ≤ 65535) :
    decodeH2 f (rid :: (le16 (BitVec.ofNat 16 info.length) ++ info)) = .ok (f rid info) :=
  decodeH2_eq_ok.mpr ⟨rid, _, _, info, rfl, by rw [u16le_le16, toNat_ofNat_length (by omega)], rfl⟩

theorem decodeH5_le16 (f : Bytes → Instr) {bytes : Bytes} (h : bytes.length ≤ 65535) :
    decodeH5 f (le16 (BitVec.ofNat 16 bytes.length) ++ bytes) = .ok (f bytes) :=
  decodeH5_eq_ok.mpr ⟨_, _, bytes, rfl, by rw [u16le_le16, toNat_ofNat_length (by omega)], rfl⟩

theorem wellFormed_encInv {rid opt : Byte} {ant : Option Bytes} {stop : Option StopTrigger} :
    WellFormed (.encInv rid opt ant stop) ↔
      ant.isSome = bit opt 0 ∧ (ant.getD []).length ≤ 255 ∧ stop.isSome = bit opt 2 := by
  simp [WellFormed, Instr.wellFormed, and_assoc]

/-- Settles O1: each op's format accepts the operand bytes the encoder lays out for it. -/
theorem decodeEncodeRoundTrip : Obligations.DecodeEncodeRoundTrip := by
  intro i hw
  cases i with
  | buildReq rid info => exact decodeH2_le16 _ rid (of_decide_eq_true hw)
  | rxPush bytes => exact decodeH5_le16 _ (of_decide_eq_true hw)
  | encInv rid opt ant stop =>
    obtain ⟨ha, hl, hs⟩ := wellFormed_encInv.mp hw
    exact decodeH4_eq_ok.mpr ⟨rid, opt, ant, stop, rfl, ha, hl, hs, rfl⟩
  | curSet p => exact decodeH6_eq_ok.mpr ⟨p, rfl, rfl⟩
  | curRd n => exact decodeH7_eq_ok.mpr ⟨n, rfl, rfl⟩
  | _ => rfl

theorem eq_ofNat_of_toNat_eq {b : Byte} {n : Nat} (h : b.toNat = n) : b = BitVec.ofNat 8 n := by
  rw [← h, BitVec.ofNat_toNat, BitVec.setWidth_eq]

/-- The opcode map read backwards: opcode and operand bytes of an accepted word are the encoder's. -/
theorem encode_of_decodeOp_eq_ok {op : Byte} {body : Bytes} {i : Instr}
    (h : decodeOp op body = .ok i) : WellFormed i ∧ encode i = op :: body := by
  unfold decodeOp at h
  split at h
  case h_17 => cases h
  all_goals rename_i hop; obtain rfl := eq_ofNat_of_toNat_eq hop
  case h_2 | h_11 => obtain ⟨a, rfl, rfl⟩ := decodeH1_eq_ok.mp h; exact ⟨rfl, rfl⟩
  case h_3 =>
    obtain ⟨rid, l0, l1, info, rfl, hl, rfl⟩ := decodeH2_eq_ok.mp h
    obtain ⟨hle, hb⟩ := length_eq_u16le hl
    exact ⟨decide_eq_true hle, by rw [encode, hb]; rfl⟩
  case h_4 => obtain ⟨a, b, c, rfl, rfl⟩ := decodeH3_eq_ok.mp h; exact ⟨rfl, rfl⟩
  case h_5 =>
    obtain ⟨rid, opt, ant, stop, rfl, ha, hl, hs, rfl⟩ := decodeH4_eq_ok.mp h
    exact ⟨wellFormed_encInv.mpr ⟨ha, hl, hs⟩, rfl⟩
  case h_6 =>
    obtain ⟨l0, l1, bytes, rfl, hl, rfl⟩ := decodeH5_eq_ok.mp h
    obtain ⟨hle, hb⟩ := length_eq_u16le hl
    exact ⟨decide_eq_true hle, by rw [encode, hb]; rfl⟩
  case h_12 => obtain ⟨p, rfl, rfl⟩ := decodeH6_eq_ok.mp h; exact ⟨rfl, rfl⟩
  case h_13 => obtain ⟨n, rfl, rfl⟩ := decodeH7_eq_ok.mp h; exact ⟨rfl, rfl⟩
  all_goals obtain ⟨rfl, rfl⟩ := decodeH0_eq_ok.mp h; exact ⟨rfl, rfl⟩

/-- Settles O2: the opcode map read backwards. -/
theorem decodedWordIsTheEncodersWord : Obligations.DecodedWordIsTheEncodersWord := by
  intro w i h
  cases w with
  | nil => cases h
  | cons op body => exact encode_of_decodeOp_eq_ok h

/-! ### The words the decoder rejects -/

theorem decodeOp_illegal {op : Byte} (body : Bytes) (h : op.toNat = 0 ∨ 0x11 ≤ op.toNat) :
    decodeOp op body = .error .illegalOpcode := by
  unfold decodeOp
  split
  case h_17 => rfl
  all_goals omega

theorem decodeStop_eq_error {opt : Byte} {f : Option StopTrigger → Instr} {rest : Bytes}
    {e : DecodeError} (h : decodeStop opt f rest = .error e) : e = .wrongLength := by
  unfold decodeStop at h
  split at h <;> split at h <;> cases h <;> rfl

theorem decodeH4_eq_error {f : Byte → Byte → Option Bytes → Option StopTrigger → Instr}
    {body : Bytes} {e : DecodeError} (h : decodeH4 f body = .error e) : e = .wrongLength := by
  unfold decodeH4 at h
  split at h
  · split at h
    · split at h
      · split at h
        · exact decodeStop_eq_error h
        · cases h; rfl
      · cases h; rfl
    · exact decodeStop_eq_error h
  · cases h; rfl

theorem decodeH2_eq_error {f : Byte → Bytes → Instr} {body : Bytes} {e : DecodeError}
    (h : decodeH2 f body = .error e) : e = .wrongLength := by
  unfold decodeH2 at h
  split at h
  · split at h <;> cases h; rfl
  · cases h; rfl

theorem decodeH5_eq_error {f : Bytes → Instr} {body : Bytes} {e : DecodeError}
    (h : decodeH5 f body = .error e) : e = .wrongLength := by
  unfold decodeH5 at h
  split at h
  · split at h <;> cases h; rfl
  · cases h; rfl

/-- R83: what the decoder finds wrong with a word of a legal opcode is its length. -/
theorem decodeOp_eq_error {op : Byte} {body : Bytes} {e : DecodeError} (h1 : 0x01 ≤ op.toNat)
    (h16 : op.toNat ≤ 0x10) (h : decodeOp op body = .error e) : e = .wrongLength := by
  unfold decodeOp at h
  split at h
  case h_17 => simp only [imp_false] at *; omega
  case h_3 => exact decodeH2_eq_error h
  case h_5 => exact decodeH4_eq_error h
  case h_6 => exact decodeH5_eq_error h
  all_goals
    simp only [decodeH0, decodeH1, decodeH3, decodeH6, decodeH7] at h
    split at h <;> cases h
    rfl

/-- R79, R80: the encoder's word has the length that its leading bytes tell. -/
theorem wordLength_encode {i : Instr} (hw : WellFormed i) :
    wordLength (encode i) = some (encode i).length := by
  cases i with
  | buildReq rid info => exact Laws.EncodeLength.buildReq rid info hw
  | encInv rid opt ant stop => exact Laws.EncodeLength.encInv rid opt ant stop hw
  | rxPush bytes => exact Laws.EncodeLength.rxPush bytes hw
  | _ => rfl

/-- R83: a word of a legal opcode is rejected for its length as soon as it has not the length R80 tells. -/
theorem decodeOp_wrongLength {op : Byte} {body : Bytes} (h1 : 0x01 ≤ op.toNat)
    (h16 : op.toNat ≤ 0x10) (hl : wordLength (op :: body) ≠ some (body.length + 1)) :
    decodeOp op body = .error .wrongLength := by
  cases h : decodeOp op body with
  | error e => rw [decodeOp_eq_error h1 h16 h]
  | ok i =>
    obtain ⟨hw, he⟩ := encode_of_decodeOp_eq_ok h
    have hlen := wordLength_encode hw
    rw [he] at hlen
    exact absurd hlen hl

/-! ### A step on a rejected word -/

/-- The branch of `step` that meets a rejected word, in the form that follows from what is on the port (R82, R83). -/
theorem step_eq_raise {s : State} {w : Bytes} {rest : List Input} {e : DecodeError}
    (hc : configOk s.cfg = true) (hp : s.port = .op w :: rest) (hd : decode w = .error e) :
    step s = .next (raise (rejectReason e) 0 { s with port := rest, pc := s.pc + 1 }) := by
  simp only [step, fetch_malformed hc hp hd, takeOp_eq hp]

/-- Settles O5: the decoder rejects both words, and `rejectReason` gives their sub-reasons. -/
theorem illegalOpcodeRaisesUnsupported : Obligations.IllegalOpcodeRaisesUnsupported :=
  fun _ _ hc => ⟨fun _ body hp hop => step_eq_raise hc hp (decodeOp_illegal body hop),
    fun hp => step_eq_raise hc hp rfl⟩

/-- Settles O6: a word the decoder accepts is the encoder's, which has the right length. -/
theorem wrongLengthRaisesHostfmt : Obligations.WrongLengthRaisesHostfmt :=
  fun _ _ _ _ hc hp h1 h16 hl => step_eq_raise hc hp (decodeOp_wrongLength h1 h16 hl)

/-! ### The length rule, and sample words and lines -/

/-- R80, format H4: only bits 0 and 2 of `opt` and, when bit 0 is set, `alen` count. -/
theorem wordLength_encInv (rid opt alen : Byte) (body : Bytes) :
    wordLength (0x05 :: rid :: opt :: alen :: body)
      = some (3 + (if bit opt 0 then 1 + alen.toNat else 0) + (if bit opt 2 then 7 else 0)) := by
  cases h : bit opt 0 <;> simp [wordLength, lengthH4, h]

/-- R80, format H4 without the antenna operand. -/
theorem wordLength_encInv_noAnt (rid : Byte) {opt : Byte} (h : bit opt 0 = false) :
    wordLength [0x05, rid, opt] = some (3 + (if bit opt 2 then 7 else 0)) := by
  simp [wordLength, lengthH4, h]

/-- Settles O3, format by format. -/
theorem wordLengthFollowsTheFormatTable : Obligations.WordLengthFollowsTheFormatTable := by
  refine ⟨fun op hop body => ?_, fun op hop body => ?_, fun rid l0 l1 body => ?_, fun _ => rfl,
    wordLength_encInv, fun rid _ => wordLength_encInv_noAnt rid, fun l0 l1 body => ?_,
    fun _ => rfl, fun _ => rfl⟩
  · fin_cases hop <;> rfl
  · fin_cases hop <;> rfl
  · rw [← u16le_toNat]; rfl
  · rw [← u16le_toNat]; rfl

/-- Settles O4: the decoder computes each op. -/
theorem sampleWordsDecode : Obligations.SampleWordsDecode := ⟨rfl, rfl, rfl, rfl, rfl⟩

/-- Settles O59: the assembler computes each word. -/
theorem assemblerLinesGiveTheirWords : Obligations.AssemblerLinesGiveTheirWords := by
  unfold Obligations.AssemblerLinesGiveTheirWords
  decide +kernel

end Sys2Proof
end

section
/-! Proofs for the statements of 30_encoding.md about operand bits: reserved bits, the request PCB and the second byte of an RSCB request. -/

namespace Sys2Proof.Machine

open Sys2Proof.Config

/-- Settles O7: the reserved bits are the first check of both ops. -/
theorem reservedOperandBitsRaise : Obligations.ReservedOperandBitsRaise := by
  refine fun s => ⟨fun rid b1 count h => ?_, fun rid opt ant stop h => ?_⟩
  · exact if_pos h
  · exact if_pos ((optReserved_eq opt).trans (decide_eq_true h))

/-- A flag moved to bit `k` of a byte is that bit alone. -/
theorem getLsbD_flag (b : Bool) {k : Nat} (hk : k < 8) (i : Nat) :
    ((BitVec.ofBool b).setWidth 8 <<< k).getLsbD i = (decide (i = k) && b) := by
  rw [BitVec.getLsbD_shiftLeft]
  obtain h | rfl | h := Nat.lt_trichotomy i k
  · simp [h, h.ne]
  · simp [hk]
  · simp [BitVec.getLsbD_setWidth, h.ne', show i - k ≠ 0 by omega]

/-- R67: bit 6 of a request PCB is the sequence bit, laid over PCB_I_BASE. -/
theorem bit_requestPcb (c : Params) (b : Bool) (i : Nat) :
    bit (requestPcb c b) i = (bit c.pcbIBase i || decide (i = 6) && b) := by
  rw [bit, requestPcb, BitVec.getLsbD_or, getLsbD_flag b (by omega), bit]

/-- R71, R81: the bits of the second byte of an RSCB request. -/
theorem bit_rscbB1 (rom : Bool) (addr : BitVec 6) (i : Nat) :
    bit (rscbB1 rom addr) i = (addr.getLsbD i || decide (i = 7) && rom) := by
  have ha : (addr.setWidth 8).getLsbD i = addr.getLsbD i := by
    by_cases h : i < 8
    · simp [h]
    · simp [h, BitVec.getLsbD_of_ge addr i (by omega)]
  rw [bit, rscbB1, BitVec.getLsbD_or, getLsbD_flag rom (by omega), ha, Bool.or_comm]

/-- R71, R81: `addr` is below 128, so laying it over `rom` at bit 7 adds it. -/
theorem rscbB1_toNat (rom : Bool) (addr : BitVec 6) :
    (rscbB1 rom addr).toNat = (if rom then 128 else 0) + addr.toNat := by
  have ha : addr.toNat < 2 ^ 7 := by omega
  have hs : (addr.setWidth 8).toNat = addr.toNat := BitVec.toNat_setWidth_of_le (by omega)
  cases rom
  · simp [rscbB1]; omega
  · rw [rscbB1, BitVec.toNat_or, hs]
    exact (Nat.shiftLeft_add_eq_or_of_lt ha 1).symm

/-- R81: with its reserved bit clear, the byte is the one of its fields. -/
theorem rscbB1_fields {b1 : Byte} (h : bit b1 6 = false) :
    rscbB1 (rscbRom b1) (rscbAddr b1) = b1 := by
  refine BitVec.eq_of_getLsbD_eq fun i hi => ?_
  change bit _ i = bit b1 i
  rw [bit_rscbB1, rscbAddr, BitVec.getLsbD_setWidth]
  obtain hlt | rfl | rfl : i < 6 ∨ i = 6 ∨ i = 7 := by omega
  · simp [hlt, show i ≠ 7 by omega, bit]
  · simp [h]
  · simp [rscbRom]

/-- Settles O21: the bits under R155, which keeps bits 5 and 6 of PCB_I_BASE clear. -/
theorem requestByteLayouts : Obligations.RequestByteLayouts := by
  refine ⟨fun c b hc i _ => ?_, rscbB1_toNat, fun _ => rscbB1_fields⟩
  obtain ⟨h6, h5⟩ : bit c.pcbIBase 6 = false ∧ bit c.pcbIBase 5 = false := by
    simp only [configOk, Bool.and_eq_true, Bool.not_eq_true'] at hc
    tauto
  rw [bit_requestPcb]
  split
  · next h => simp [h, h6]
  · next hn =>
    split
    · next h => simp [h, h5]
    · simp [hn]

end Sys2Proof.Machine
end

section
/-! Proofs for the statements of 40_frame_codec.md: the I-Block build core with BUILD_REQ, the frame of the builds, and DECODE_ENV. -/

namespace Sys2Proof.Machine

/-! ### The build core, outcome by outcome (R87) -/

/-- R87: the first check of a build, that the information field holds a command code. -/
theorem buildError_nil (s : State) : buildError [] s = some .noCommand := rfl

/-- R87: the second check, that the command code is an accepted one. -/
theorem buildError_commandCode {cmd : Byte} {rest : Bytes} {s : State}
    (hc : cmd ∉ s.cfg.validCmds) : buildError (cmd :: rest) s = some .commandCode := by
  simp [buildError, hc]

theorem buildCore_raises {rid : Byte} {info : Bytes} {s : State} {r : Reason}
    (h : buildError info s = some r) : buildCore rid info s = .next (raise r 0 s) :=
  buildCore_eq_next.mpr (.inl ⟨r, h, rfl⟩)

/-- R87: the stamped bit is SEQ itself, as long as SEQ is legal. -/
theorem requestPcb_seqBit {s : State} (hq : s.seq = 0 ∨ s.seq = 1) :
    requestPcb s.cfg (seqBit s) = s.cfg.pcbIBase ||| s.seq <<< 6 := by
  rw [requestPcb, seqBit, (seq_flip hq).2]

/-- R86, R87: the frame of a request, written out. -/
theorem requestFrame_eq {s : State} (hq : s.seq = 0 ∨ s.seq = 1) (rid : Byte) (info : Bytes) :
    requestFrame rid info s = (s.cfg.pcbIBase ||| s.seq <<< 6) :: rid :: info := by
  rw [requestFrame, requestPcb_seqBit hq]
  rfl

/-- R87: the whole effect of a successful build, written out. -/
theorem built_eq {s : State} (hq : s.seq = 0 ∨ s.seq = 1) (rid cmd : Byte) (rest : Bytes) :
    built rid (cmd :: rest) s = { s with
      callerErr := s.callerErr || s.await
      seq := s.seq ^^^ 1, await := true, pendKind := .iBlock, pendCmd := cmd
      pendSeq := bit s.seq 0, pendRid := rid, rxbuf := [], curPos := 0
      tx := s.tx ++ [(s.cfg.pcbIBase ||| s.seq <<< 6) :: rid :: cmd :: rest]
      txLast := (s.cfg.pcbIBase ||| s.seq <<< 6) :: rid :: cmd :: rest
      status := ⟨.none, 0, 0⟩, resKind := .tx, resValid := true } := by
  rw [built, requestFrame_eq hq, ← (seq_flip hq).1]
  rfl

section
variable {rid cmd : Byte} {rest : Bytes} {s : State} (hc : cmd ∈ s.cfg.validCmds)
  (hn : s.needResync = false) (hq : s.seq = 0 ∨ s.seq = 1)
include hc hn hq

theorem buildError_of_ready : buildError (cmd :: rest) s = none :=
  buildError_eq_none.mpr ⟨cmd, rest, rfl, hc, hn, seqLegal_iff.mpr hq⟩

/-- R88, R165(c): past its checks, a build is refused when its frame is too long (log 7). -/
theorem buildCore_refused (hw : within s.cfg.txFrameMax (rest.length + 3) = false) :
    buildCore rid (cmd :: rest) s = .refused .txFrameTooLong :=
  buildCore_eq_refused.mpr
    ⟨buildError_of_ready hc hn hq, by rwa [requestFrame_eq hq], rfl⟩

/-- R87: past its checks, a build within TX_FRAME_MAX completes. -/
theorem buildCore_built (hw : within s.cfg.txFrameMax (rest.length + 3) = true) :
    buildCore rid (cmd :: rest) s = .next (built rid (cmd :: rest) s) :=
  buildCore_eq_next.mpr
    (.inr ⟨buildError_of_ready hc hn hq, by rwa [requestFrame_eq hq], rfl⟩)

end

/-- R88: BUILD_REQ is the build core. -/
theorem exec_buildReq (rid : Byte) (info : Bytes) (s : State) :
    exec (.buildReq rid info) s = buildCore rid info s := rfl

/-- Settles O17: one outcome of the build core per clause. -/
theorem buildReqOpensTheExchange : Obligations.BuildReqOpensTheExchange := by
  intro rid s
  simp only [exec_buildReq]
  refine ⟨buildCore_raises (buildError_nil s), fun cmd rest =>
    ⟨fun hc => buildCore_raises (buildError_commandCode hc), fun hc => ⟨fun hn => ?_,
      fun hn h0 h1 => ?_, fun hn hq => ⟨buildCore_refused hc hn hq, fun hw => ?_⟩⟩⟩⟩
  · exact buildCore_raises (buildError_resync hc hn)
  · exact buildCore_raises (buildError_badSeq hc hn h0 h1)
  · rw [buildCore_built hc hn hq hw, built_eq hq]

/-- Settles O41: a build raises, or leaves the state `built` writes out. -/
theorem buildOpsFrame : Obligations.BuildOpsFrame := by
  intro i s t hi h
  obtain ⟨r, rfl⟩ | ⟨rid, info, -, -, rfl⟩ := build_next hi h
  · rfl
  · rfl

/-! ### DECODE_ENV (R89, R90) -/

/-- Settles O24: the two outcomes of `decodeEnvelope`. -/
theorem decodeEnvReadsTheEnvelope : Obligations.DecodeEnvReadsTheEnvelope := by
  refine fun s => ⟨fun hl => ?_, fun pcb rid info hb => ?_⟩
  · exact decodeEnv_next.mpr (.inl ⟨_, decodeEnvelope_eq_error.mpr ⟨hl, rfl⟩, rfl⟩)
  · exact decodeEnv_next.mpr (.inr ⟨⟨pcb, rid, info⟩, decodeEnvelope_eq_ok.mpr hb, rfl⟩)

end Sys2Proof.Machine
end

section
/-! Proofs for the statements of 41_sequencer.md: RESYNC, FORCE_SEQ, TIMEOUT and ABANDON, the transition table of SEQ, and the sequence bits of a run. -/

namespace Sys2Proof.Machine

open Sys2Proof.Config

/-! ### RESYNC (R94, R99) -/

/-- R94: what RESYNC makes of the exchange, for both settings of RESYNC_AWAITS_RESPONSE. -/
theorem resyncExchange_eq (rid : Byte) (s : State) :
    resyncExchange rid s = { s with
      await := s.cfg.resyncAwaits
      pendKind := if s.cfg.resyncAwaits then .sBlock else s.pendKind
      pendRid := if s.cfg.resyncAwaits then rid else s.pendRid } := by
  unfold resyncExchange
  cases s.cfg.resyncAwaits <;> rfl

/-- R94: the whole effect of a RESYNC, written out. -/
theorem resynced_eq (rid : Byte) (s : State) :
    resynced rid s = { s with
      seq := 0, needResync := false, await := s.cfg.resyncAwaits
      pendKind := if s.cfg.resyncAwaits then .sBlock else s.pendKind
      pendRid := if s.cfg.resyncAwaits then rid else s.pendRid
      rxbuf := [], curPos := 0
      tx := s.tx ++ [[s.cfg.pcbSResync, rid]], txLast := [s.cfg.pcbSResync, rid]
      status := ⟨.none, 0, 0⟩, resKind := .tx, resValid := true } := by
  rw [resynced, resyncExchange_eq]
  rfl

/-- R99: what the second RESYNC writes is in place already, but for its frame. -/
theorem resynced_resynced (rid : Byte) (s : State) :
    resynced rid (resynced rid s) = { resynced rid s with
      tx := (resynced rid s).tx ++ [[s.cfg.pcbSResync, rid]] } := by
  rw [resynced_eq rid (resynced rid s), resynced_eq rid s]
  cases s.cfg.resyncAwaits <;> rfl

/-- Settles O12: the two outcomes of sending the two-byte frame. -/
theorem resyncSendsTheSBlock : Obligations.ResyncSendsTheSBlock := fun rid s =>
  ⟨fun hw => resync_next.mpr ⟨hw, (resynced_eq rid s).symm⟩,
    fun hw => resync_refused.mpr ⟨hw, rfl⟩⟩

/-- Settles O13: a RESYNC keeps the configuration, so the second frame fits where the first did. -/
theorem resyncIsIdempotent : Obligations.ResyncIsIdempotent := by
  intro rid s t h
  have hc : t.cfg = s.cfg := exec_cfg h
  obtain ⟨hw, rfl⟩ := resync_next.mp h
  refine ⟨?_, ?_, ?_, resync_next.mpr ⟨by rwa [hc], (resynced_resynced rid s).symm⟩⟩ <;>
    rw [resynced_eq]

/-! ### FORCE_SEQ, TIMEOUT and ABANDON (R95 to R97) -/

/-- Settles O14: FORCE_SEQ leaves what the checks before BAD_SEQ read, so the build meets that one. -/
theorem forceSeqIsCaughtByTheNextBuild : Obligations.ForceSeqIsCaughtByTheNextBuild := by
  refine fun v s => ⟨rfl, fun rid cmd rest t h h0 h1 hn hc => ?_⟩
  cases h
  exact buildCore_raises
    (buildError_badSeq (s := okWith .none { s with seq := v }) hc hn h0 h1)

/-- Settles O15: the two outcomes of TIMEOUT. -/
theorem timeoutEndsTheExchange : Obligations.TimeoutEndsTheExchange := fun _ =>
  ⟨fun ha => timeout_next.mpr (.inl ⟨ha, rfl⟩), fun ha => timeout_next.mpr (.inr ⟨ha, rfl⟩)⟩

/-- Settles O16: the guard on AWAIT and the disjunction the model writes are the same bit. -/
theorem abandonEndsTheExchange : Obligations.AbandonEndsTheExchange := by
  intro s
  have hn : (if s.await then true else s.needResync) = (s.needResync || s.await) := by
    cases s.await <;> simp
  rw [hn]
  rfl

/-! ### The transition table of SEQ (R92, R98) -/

/-- R87, R92: a successful build flips a legal SEQ. -/
theorem built_seq {s : State} (hq : SeqInv s) (rid : Byte) (info : Bytes) :
    (built rid info s).seq = s.seq ^^^ 1 := (seq_flip hq).1

/-- R92: an op that is no RESYNC, OPEN_SESSION or FORCE_SEQ leaves SEQ and the TX stream, unless it is a build that succeeds. -/
theorem exec_built_or_keeps_seq {i : Instr} {s t : State} (h : exec i s = .next t)
    (hi : setsSeq i = false) :
    (isBuild i = true ∧ SeqInv s ∧ ∃ rid info, t = built rid info s) ∨
      ((isBuild i = false ∨ t.status.err ≠ .none) ∧ t.seq = s.seq ∧ t.tx = s.tx) := by
  cases exec_effect h with
  | opened | resynced | forced => cases hi
  | built _ _ rid info hb he =>
    obtain ⟨-, -, -, -, -, hq⟩ := buildError_eq_none.mp he
    exact .inl ⟨hb, seqLegal_iff.mp hq, rid, info, rfl⟩
  | notBuilt _ _ r => exact .inr ⟨.inr (raise_err_ne_none r 0 s), rfl, rfl⟩
  | curRead _ _ _ _ hc | curFailed _ _ _ _ hc =>
    exact .inr ⟨.inl (curRead_noOther hc).1, rfl, rfl⟩
  | respRead _ r => exact .inr ⟨.inl rfl, writeResponse_seq r s, writeResponse_tx r s⟩
  | _ => exact .inr ⟨.inl rfl, rfl, rfl⟩

/-- R93, R94, R98: OPEN_SESSION and RESYNC leave SEQ at 0. -/
theorem exec_seq_of_restarts {i : Instr} {s t : State} (h : exec i s = .next t)
    (hi : i = .openSession ∨ ∃ rid, i = .resync rid) : t.seq = 0 := by
  obtain rfl | ⟨rid, rfl⟩ := hi
  · cases h; rfl
  · obtain ⟨-, rfl⟩ := resync_next.mp h
    rw [resynced_eq]

/-- Settles O45, row by row. -/
theorem seqTransitionTable : Obligations.SeqTransitionTable := by
  refine ⟨fun i s t h => ⟨fun hb hok => ?_, fun hb hr => ?_, exec_seq_of_restarts h, ?_,
    fun hb hi => ?_⟩, fun s t rest hp h => ?_⟩
  · obtain ⟨-, hq, rid, info, rfl⟩ | ⟨hn, -⟩ :=
      exec_built_or_keeps_seq h (build_noOther hb).2.setsSeq
    · exact ⟨hq, built_seq hq rid info⟩
    · simp [hb, hok] at hn
  · obtain ⟨r, rfl⟩ | ⟨rid, info, -, -, rfl⟩ := build_next hb h
    · rfl
    · exact absurd rfl hr
  · rintro v rfl
    cases h; rfl
  · obtain ⟨hb', -⟩ | ⟨-, hs, -⟩ := exec_built_or_keeps_seq h hi
    · exact absurd hb' (by simp [hb])
    · exact hs
  · rw [step_eq_resetInput (step_next h).1 hp] at h
    cases h; rfl

/-! ### The sequence bits of a run (R100) -/

/-- A list of ops runs op by op (20_memory.md R60). -/
theorem execAll_cons {i : Instr} {is : List Instr} {s t : State} :
    execAll (i :: is) s = .next t ↔ ∃ u, exec i s = .next u ∧ execAll is u = .next t := by
  rw [execAll]
  cases exec i s <;> simp

/-- R100: a successful build counts. -/
theorem buildCount_cons_built {i : Instr} {s u : State} (h : exec i s = .next u)
    (hb : isBuild i = true) (hok : u.status.err = .none) (is : List Instr) :
    buildCount (i :: is) s = buildCount is u + 1 := by
  simp [buildCount, h, hb, hok, Nat.add_comm]

/-- R100: builds that raise, and ops that are no builds, do not count. -/
theorem buildCount_cons_other {i : Instr} {s u : State} (h : exec i s = .next u)
    (hn : isBuild i = false ∨ u.status.err ≠ .none) (is : List Instr) :
    buildCount (i :: is) s = buildCount is u := by
  obtain hn | hn := hn <;> simp [buildCount, h, hn]

/-- R67: bit 6 of the first byte of the frames, from `b` on in turn. -/
def Alternates (b : Bool) (frames : List Bytes) : Prop :=
  ∀ (k : Nat) (f : Bytes), frames[k]? = some f → bit (f.headD 0) 6 = (b ^^ decide (k % 2 = 1))

theorem alternates_nil (b : Bool) : Alternates b [] := by simp [Alternates]

theorem alternates_cons {b : Bool} {f : Bytes} {fs : List Bytes} (hf : bit (f.headD 0) 6 = b)
    (hs : Alternates (!b) fs) : Alternates b (f :: fs) := by
  rintro (_ | k) g hg
  · cases hg
    simpa using hf
  · rw [hs k g hg]
    obtain hk | hk := Nat.mod_two_eq_zero_or_one k
    · simp [hk, show (k + 1) % 2 = 1 by omega]
    · simp [hk, show (k + 1) % 2 = 0 by omega]

/-- R67: the frame of a build carries `SEQ[0]` in bit 6, under a legal configuration (70_reset_and_hazards.md R155). -/
theorem bit_requestFrame {s : State} (hc : configOk s.cfg = true) (rid : Byte) (info : Bytes) :
    bit ((requestFrame rid info s).headD 0) 6 = bit s.seq 0 :=
  requestByteLayouts.1 s.cfg (seqBit s) hc 6 (by decide)

/-- A legal SEQ flipped: `SEQ[0]` is the other bit, and the parity that `n` builds more give is that of `n + 1` from before. -/
theorem seq_flip_parity {v : Byte} (h : v = 0 ∨ v = 1) (n : Nat) :
    bit (v ^^^ 1) 0 = !bit v 0 ∧ ((v ^^^ 1).toNat + n) % 2 = (v.toNat + (n + 1)) % 2 := by
  obtain rfl | rfl := h
  · refine ⟨rfl, ?_⟩
    change (1 + n) % 2 = (0 + (n + 1)) % 2
    omega
  · refine ⟨rfl, ?_⟩
    change (0 + n) % 2 = (1 + (n + 1)) % 2
    omega

/-- A legal SEQ is its own parity. -/
theorem seq_eq_parity {v : Byte} (h : v = 0 ∨ v = 1) : v = BitVec.ofNat 8 (v.toNat % 2) := by
  obtain rfl | rfl := h <;> rfl

/-- Settles O46, by induction on the ops: a successful build puts one frame in front and flips SEQ, every other op leaves both. -/
theorem sequenceBitsAlternate : Obligations.SequenceBitsAlternate := by
  intro is
  induction is with
  | nil =>
    intro s t _ hq _ h
    cases h
    exact ⟨[], by simp, rfl, alternates_nil _, seq_eq_parity hq⟩
  | cons i is ih =>
    intro s t hc hq hi h
    obtain ⟨u, hu, hrun⟩ := execAll_cons.mp h
    obtain ⟨hi, his⟩ := List.forall_mem_cons.mp hi
    have hcu : configOk u.cfg = true := by rwa [exec_cfg hu]
    have hqu : SeqInv u := exec_keeps_seqInv hq (by rintro v rfl; cases hi) hu
    obtain ⟨fs, htx, hlen, hbits, hseq⟩ := ih u t hcu hqu his hrun
    obtain ⟨hb, -, rid, info, rfl⟩ | ⟨hn, hs, hx⟩ := exec_built_or_keeps_seq hu hi
    · obtain ⟨hflip, hpar⟩ := seq_flip_parity hq fs.length
      rw [built_seq hq] at hbits hseq
      rw [hflip] at hbits
      refine ⟨requestFrame rid info s :: fs, ?_, ?_, ?_, ?_⟩
      · rw [htx]
        exact List.append_assoc s.tx [requestFrame rid info s] fs
      · rw [buildCount_cons_built hu hb rfl, ← hlen, List.length_cons]
      · exact alternates_cons (bit_requestFrame hc rid info) hbits
      · rw [hseq, hpar, List.length_cons]
    · rw [hs] at hbits hseq
      exact ⟨fs, by rw [htx, hx], by rw [buildCount_cons_other hu hn, hlen], hbits, hseq⟩

end Sys2Proof.Machine
end

section
/-! Proofs for the statements of 42_command_codecs.md about the request codecs: ENC_RSCB and ENC_INV, each op's own checks in their order and then the build core. -/

namespace Sys2Proof.Machine

open Sys2Proof.Config

/-- R102: with the reserved bit clear, ENC_RSCB is the build of its three bytes. -/
theorem exec_encRscb {b1 : Byte} (h : bit b1 6 = false) (rid count : Byte) (s : State) :
    exec (.encRscb rid b1 count) s = buildCore rid [0x01, b1, count] s :=
  if_neg (Bool.eq_false_iff.mp h)

/-- Settles O18: its own check, then one outcome of the build core per clause. -/
theorem encRscbBuildsTheRequest : Obligations.EncRscbBuildsTheRequest := by
  intro rid b1 count s hc
  refine ⟨(reservedOperandBitsRaise s).1 rid b1 count, fun h hn => ?_,
    fun h hn h0 h1 => ?_, fun h hn hq hw => ?_, fun h hn hq hw => ?_⟩
  all_goals rw [exec_encRscb h]
  · exact buildCore_raises (buildError_resync hc hn)
  · exact buildCore_raises (buildError_badSeq hc hn h0 h1)
  · exact buildCore_refused hc hn hq hw
  · rw [buildCore_built (rest := [b1, count]) hc hn hq hw, built_eq hq]

/-- R109: the stop-type check fails on a trigger that is called for, present and of no known type. -/
theorem badStopType_iff {opt : Byte} {stop : Option StopTrigger} {s : State} :
    badStopType opt stop s = true ↔
      bit opt 2 = true ∧ ∃ t, stop = some t ∧ t.type ∉ stopTypes s.cfg := by
  cases stop <;> simp [badStopType, optStop]

section
variable {rid opt : Byte} {ant : Option Bytes} {stop : Option StopTrigger} {s : State}
  (h16 : opt.toNat < 16)
include h16

/-- R106: past the reserved bits, ENC_INV checks `opt[1]`, then the stop type, and then builds. -/
theorem exec_encInv : exec (.encInv rid opt ant stop) s =
    if bit opt 1 = true then .next (raise .airParams 0 s)
    else if badStopType opt stop s = true then .next (raise .stopType 0 s)
    else buildCore rid (invInfo s.cfg opt ant stop) s := by
  have h0 : ¬optReserved opt = true := by simp [optReserved_eq, h16]
  exact if_neg h0

/-- R107: the second check of ENC_INV. -/
theorem encInv_airParams (h1 : bit opt 1 = true) :
    exec (.encInv rid opt ant stop) s = .next (raise .airParams 0 s) :=
  (exec_encInv h16).trans (if_pos h1)

variable (h1 : bit opt 1 = false)
include h1

/-- R106: with `opt[1]` clear, the stop type and the build are left. -/
theorem exec_encInv_noAirParams : exec (.encInv rid opt ant stop) s =
    if badStopType opt stop s = true then .next (raise .stopType 0 s)
    else buildCore rid (invInfo s.cfg opt ant stop) s :=
  (exec_encInv h16).trans (if_neg (Bool.eq_false_iff.mp h1))

/-- R106, R109: the third check of ENC_INV. -/
theorem encInv_stopType {t : StopTrigger} (h2 : bit opt 2 = true) (ht : stop = some t)
    (hty : t.type ∉ stopTypes s.cfg) :
    exec (.encInv rid opt ant stop) s = .next (raise .stopType 0 s) :=
  (exec_encInv_noAirParams h16 h1).trans (if_pos (badStopType_iff.mpr ⟨h2, t, ht, hty⟩))

/-- R106: past its own checks, ENC_INV is the build of its information field. -/
theorem encInv_build (hst : bit opt 2 = true → ∀ t, stop = some t → t.type ∈ stopTypes s.cfg) :
    exec (.encInv rid opt ant stop) s = buildCore rid (invInfo s.cfg opt ant stop) s :=
  (exec_encInv_noAirParams h16 h1).trans (if_neg fun h => by
    obtain ⟨h2, t, ht, hty⟩ := badStopType_iff.mp h
    exact hty (hst h2 t ht))

end

/-- Settles O19: the op's own checks, then those of the build core, whose information field begins with 0x31 whatever the operands. -/
theorem encInvErrorsInOrder : Obligations.EncInvErrorsInOrder := by
  intro rid opt ant stop s hc
  refine ⟨(reservedOperandBitsRaise s).2 rid opt ant stop, fun h16 =>
    ⟨fun h1 => encInv_airParams h16 h1, fun h1 =>
      ⟨fun t h2 ht hty => encInv_stopType h16 h1 h2 ht hty, fun hst =>
        ⟨fun hn => ?_, fun hn h0 hs1 => ?_⟩⟩⟩⟩
  all_goals rw [encInv_build h16 h1 hst]
  · exact buildCore_raises (buildError_resync hc hn)
  · exact buildCore_raises (buildError_badSeq hc hn h0 hs1)

/-- R73: the operands of a well-formed ENC_INV are the sub-fields its `opt` calls for. -/
theorem invInfo_of_wellFormed {rid opt : Byte} {ant : Option Bytes} {stop : Option StopTrigger}
    (hw : WellFormed (.encInv rid opt ant stop)) (c : Params) :
    invInfo c opt ant stop
      = 0x31 :: opt :: (ant.getD [] ++ (stop.map (stopField c)).getD []) := by
  obtain ⟨ha, -, hs⟩ := wellFormed_encInv.mp hw
  have hant : (if optAntenna opt then ant.getD [] else []) = ant.getD [] := by
    cases ant <;> simp [optAntenna, ← ha]
  have hstop : (if optStop opt then (stop.map (stopField c)).getD [] else [])
      = (stop.map (stopField c)).getD [] := by
    cases stop <;> simp [optStop, ← hs]
  rw [invInfo, hant, hstop]
  rfl

/-- Settles O20: the frame written out is the build core's, once the stop-trigger sub-field is laid out in either byte order. -/
theorem encInvBuildsTheRequest : Obligations.EncInvBuildsTheRequest := by
  intro rid opt ant stop s frame hwf h16 h1 hst hc hn hq hf
  have hframe : frame = (s.cfg.pcbIBase ||| s.seq <<< 6) :: rid :: 0x31 ::
      (opt :: (ant.getD [] ++ (stop.map (stopField s.cfg)).getD [])) := by
    rw [hf]
    cases stop with
    | none => rfl
    | some t =>
      simp only [Option.map_some, Option.getD_some, stopField]
      cases s.cfg.stopTimeoutOrder <;> rfl
  rw [encInv_build h16 h1 fun _ => hst, invInfo_of_wellFormed hwf, hframe]
  refine ⟨buildCore_refused hc hn hq, fun hw => ?_⟩
  rw [buildCore_built hc hn hq hw, built_eq hq]

end Sys2Proof.Machine
end

section
/-! Proofs for the statement of 42_command_codecs.md about the configuration response: `dec_rscb`, and DECODE_RESP where its own checks pass. -/

namespace Sys2Proof.Machine

/-! ### `dec_rscb` (R104), beside `decRscb_eq_ok` -/

/-- R104: an empty parameter field has no block count to read. -/
theorem decRscb_nil (base : Nat) : decRscb [] base = .error ⟨.field, base⟩ := rfl

/-- R104: data that is not 14 bytes a block is a length mismatch at the first data byte. -/
theorem decRscb_cfgBytes {n : Byte} {data : Bytes} (h : data.length ≠ 14 * n.toNat) (base : Nat) :
    decRscb (n :: data) base = .error ⟨.cfgBytes, base + 1⟩ :=
  if_pos h

/-! ### DECODE_RESP past its own checks (R113) -/

section
variable {s : State} {pcb rid : Byte} {p : Bytes} (ha : s.await = true)
  (hk : s.pendKind = .iBlock) (hpk : pcbKind s.cfg pcb = .iBlock) (h5 : bit pcb 5 = false)
  (hs : s.cfg.seqCheck ≠ .error ∨ bit pcb 6 = (s.pendSeq ^^ s.cfg.respSeqToggle))
  (hb : s.rxbuf = pcb :: rid :: s.pendCmd :: p)
include ha hk hpk h5 hs hb

/-- R113: a response that passes the checks is what the decoder keyed by PEND_CMD reads. -/
theorem decodeResponse_params :
    decodeResponse s = (decodeParams s.cfg s.pendCmd p).map
      fun r => (r, seqBitDiffers s.cfg s.pendSeq pcb, rid) := by
  have hseq : ¬(seqBitDiffers s.cfg s.pendSeq pcb = true ∧ s.cfg.seqCheck = .error) := by
    rw [seqBitDiffers_iff]
    tauto
  rw [decodeResponse_iBlock ha hk hb]
  simp only [decodeIBlock, hpk, h5, hseq, ne_eq, not_true_eq_false, Bool.false_eq_true, if_false]
  cases decodeParams s.cfg s.pendCmd p <;> rfl

theorem decodeResp_of_params_ok {r : Response} (h : decodeParams s.cfg s.pendCmd p = .ok r) :
    exec .decodeResp s = .next (okWith r.kind
      (closeExchange (seqBitDiffers s.cfg s.pendSeq pcb) rid (writeResponse r s))) :=
  decodeResp_next.mpr
    (.inr ⟨_, _, _, by rw [decodeResponse_params ha hk hpk h5 hs hb, h]; rfl, rfl⟩)

theorem decodeResp_of_params_error {f : Fail} (h : decodeParams s.cfg s.pendCmd p = .error f) :
    exec .decodeResp s = .next (raise f.reason f.pos (dropExchange s)) :=
  decodeResp_next.mpr (.inl ⟨f, by rw [decodeResponse_params ha hk hpk h5 hs hb, h]; rfl, rfl⟩)

end

/-- Settles O27: one outcome of `decRscb` per clause. -/
theorem decodeRespReadsConfiguration : Obligations.DecodeRespReadsConfiguration := by
  intro s pcb rid ha hk hcmd hpk h5 hs
  have hp : ∀ p, decodeParams s.cfg s.pendCmd p = decRscb p 3 := fun p => if_pos hcmd
  refine ⟨fun n data hb => ⟨fun hl => ?_, fun hl => ?_⟩, fun hb => ?_⟩
  all_goals rw [← hcmd] at hb
  · exact decodeResp_of_params_ok ha hk hpk h5 hs hb
      ((hp _).trans (decRscb_eq_ok.mpr ⟨n, data, rfl, hl, rfl⟩))
  · exact decodeResp_of_params_error ha hk hpk h5 hs hb ((hp _).trans (decRscb_cfgBytes hl 3))
  · exact decodeResp_of_params_error ha hk hpk h5 hs hb ((hp _).trans (decRscb_nil 3))

end Sys2Proof.Machine
end

section
/-! Proofs for the statements of 43_response_decoders.md about the decoders alone: `dec_tag` and `dec_inv` on every byte sequence, and on the bytes the wire format lays out. -/

namespace Sys2Proof.Machine

/-! ### `dec_inv`: its reads, then the check that no byte is left (R118) -/

/-- The reads of `dec_inv`, before its check that nothing is left over (R118). -/
def invReads (known : List Byte) : Reader Response := fun c => do
  let (stop, c) ← readU8 c
  let (total, c) ← readU16 c
  let (count, c) ← readU8 c
  let (tags, c) ← decTags known count.toNat c
  .ok (.inv stop total count tags, c)

/-- R118: `dec_inv` is its reads and the check of the end. -/
theorem decInv_eq (known : List Byte) (p : Bytes) (base : Nat) :
    decInv known p base = invReads known (cursor p base) >>= fun x =>
      if x.2.pos ≠ p.length then .error ⟨.trailing, base + x.2.pos⟩ else .ok x.1 := by
  simp only [decInv, invReads, bind_assoc]
  rfl

theorem CutSafe.invReads (known : List Byte) : CutSafe (invReads known) :=
  CutSafe.readU8.bind fun stop => CutSafe.readU16.bind fun total => CutSafe.readU8.bind fun count =>
    (CutSafe.decTags known count.toNat).bind fun tags =>
      CutSafe.pure (Response.inv stop total count tags)

/-- R123: a response that decodes no longer does when bytes are missing at its end. -/
theorem decInv_take_error {known : List Byte} {p : Bytes} {base k : Nat} {r : Response}
    (h : decInv known p base = .ok r) (hk : k < p.length) :
    ∃ pos, decInv known (p.take k) base = .error ⟨.field, pos⟩ := by
  rw [decInv_eq] at h
  obtain ⟨⟨r', c⟩, hr, he⟩ := except_bind_eq_ok.mp h
  have hend : c.pos = p.length := by
    by_contra hne
    exact absurd he (by simp [hne])
  obtain ⟨hle, -⟩ | ⟨pos, hcut⟩ := CutSafe.invReads known hr (Nat.zero_le k)
  · omega
  · exact ⟨pos, by rw [decInv_eq]; exact except_bind_eq_error.mpr (.inl hcut)⟩

/-- R123: a decoded response is its four fixed bytes and its records. -/
theorem decInv_size {known : List Byte} {p : Bytes} {base : Nat} {r : Response}
    (h : decInv known p base = .ok r) :
    ∃ stop total count tags, r = .inv stop total count tags ∧ tags.length = count.toNat ∧
      p.length = 4 + (tags.map tagSize).sum := by
  obtain ⟨stop, total, count, tags, c0, c1, c2, c3, h0, h1, h2, h3, hend, rfl⟩ := decInv_eq_ok.mp h
  obtain ⟨-, rfl⟩ := readU8_eq_ok.mp h0
  obtain ⟨_, _, -, -, -, rfl⟩ := readU16_eq_ok.mp h1
  obtain ⟨-, rfl⟩ := readU8_eq_ok.mp h2
  obtain ⟨hn, hpos, -⟩ := decTags_size h3
  exact ⟨stop, total, count, tags, rfl, hn, by rw [← hend, hpos]; rfl⟩

/-- R118: the four fixed bytes of a response, and then its records. -/
theorem invReads_header {known : List Byte} {stop count : Byte} {total : Half} {body : Bytes}
    {c : Cursor} (h : Ahead c (stop :: (le16 total ++ count :: body))) :
    invReads known c = decTags known count.toNat (c.skip 4) >>= fun x =>
      .ok (.inv stop total count x.1, x.2) := by
  have hcount : readU8 ((c.skip 1).skip 2) = .ok (count, c.skip 4) := h.skip_one.skip.readU8
  simp only [invReads, h.readU8, h.skip_one.readU16, hcount, except_bind_ok]

section
variable {known : List Byte} {recs : List (Byte × TagRecord)} (hn : recs.length ≤ 255)
  (hok : ∀ r ∈ recs, tagOk known r.2 = true) (stop : Byte) (total : Half) (base : Nat)
include hn hok

/-- R118: the reads of `dec_inv` over a response on the wire, whatever follows it. -/
theorem invReads_wire {c : Cursor} {rest : Bytes} (h : Ahead c (invParams stop total recs ++ rest)) :
    invReads known c = .ok (.inv stop total (BitVec.ofNat 8 recs.length) (recs.map Prod.snd),
      c.skip (invParams stop total recs).length) := by
  have h : Ahead c (stop :: (le16 total ++ BitVec.ofNat 8 recs.length ::
      (recs.flatMap (fun r => tagWire r.1 r.2) ++ rest))) := h
  have hrecs : Ahead (c.skip 4) (recs.flatMap (fun r => tagWire r.1 r.2) ++ rest) :=
    h.skip_one.skip.skip_one
  have hcount : (BitVec.ofNat 8 recs.length).toNat = recs.length := by
    rw [BitVec.toNat_ofNat, Nat.mod_eq_of_lt (by omega)]
  have hlen : (invParams stop total recs).length
      = 4 + (recs.flatMap fun r => tagWire r.1 r.2).length := Nat.add_comm _ 4
  rw [invReads_header h, hcount, decTags_wire hok hrecs, hlen, ← Cursor.skip_skip]
  rfl

/-- R118: a response on the wire decodes to its records. -/
theorem decInv_wire : decInv known (invParams stop total recs) base
    = .ok (.inv stop total (BitVec.ofNat 8 recs.length) (recs.map Prod.snd)) := by
  rw [decInv_eq, invReads_wire hn hok stop total (rest := []) (by simpa using ahead_cursor _ base)]
  simp [cursor]

/-- R118, R123: bytes after the last record are a length mismatch at the first of them. -/
theorem decInv_wire_append (x : Byte) (xs : Bytes) :
    decInv known (invParams stop total recs ++ x :: xs) base
      = .error ⟨.trailing, base + (invParams stop total recs).length⟩ := by
  rw [decInv_eq, invReads_wire hn hok stop total (ahead_cursor _ base)]
  simp [cursor]

end

/-- Settles O33: the reads of `dec_inv` are cut-safe, and its check of the end sees every extra byte. -/
theorem inventoryConsumesEveryByte : Obligations.InventoryConsumesEveryByte :=
  ⟨fun _ _ _ _ => decInv_size, fun _ stop total _ base hn hok =>
    ⟨fun _ => decInv_take_error (decInv_wire hn hok stop total base),
      decInv_wire_append hn hok stop total base⟩⟩

/-! ### `dec_tag`: presence, the air-protocol check and the embedded-command check (R120 to R122) -/

/-- R122: the size of a record, by its presence bits and by the bit count of its memory field. -/
theorem tagSize_eq {known : List Byte} {t : TagRecord} (h : tagOk known t = true) :
    tagSize t = 1 + t.ant.isSome.toNat + t.proto.isSome.toNat + t.ttype.isSome.toNat
      + (t.serial.map fun s => 1 + s.length).getD 0
      + (t.mem.map fun m => 2 + ceil8 m.bits.toNat).getD 0 := by
  obtain ⟨-, -, hm⟩ := tagOk_iff.mp h
  rw [tagSize]
  cases hc : t.mem with
  | none => rfl
  | some m => simp [hm m hc]

/-- Settles O32, from what a decoded record has read. -/
theorem tagPresenceFollowsTheFlags : Obligations.TagPresenceFollowsTheFlags := by
  intro known c c' t h
  obtain ⟨⟨fl, hfl, h0, h1, h2, h3, h4, -⟩, hpos, hok⟩ := decTag_size h
  obtain ⟨hbuf, -, -, hbound⟩ := decTag_advances h
  have hin : c.pos < c.buf.length := (List.getElem?_eq_some_iff.mp hfl).1
  refine ⟨fl, hfl, h0, h1, h2, h3, h4, ?_, ?_, hbuf⟩
  · rw [hpos, tagSize_eq hok, h0, h1, h2]
  · rw [hbuf]
    exact hbound hin.le

/-- R120: an air-protocol type id that is not a recognized code. -/
theorem Ahead.readProto_unknown {known : List Byte} {c : Cursor} {v : Byte} {rest : Bytes}
    (h : Ahead c (v :: rest)) (hv : v ∉ known) :
    readProto known c = .error ⟨.unknownProtocol v, c.base + c.pos⟩ := by
  simp [readProto, h.readU8, hv]

/-- R119: the antenna byte, present when its flag bit is 1. -/
theorem readIf_antenna {c : Cursor} {p : Bool} {ant rest : Bytes} (h : Ahead c (ant ++ rest))
    (hl : ant.length = p.toNat) : readIf p readU8 c = .ok (ant.head?, c.skip ant.length) := by
  match p, ant with
  | false, [] => rfl
  | true, [a] => rw [readIf_true, Ahead.readU8 h]; rfl

/-- R120: a record fails at its air-protocol type id when that is not a recognized code, whatever stands after it. -/
theorem decTag_unknownProtocol {known : List Byte} {c : Cursor} {fl v : Byte} {ant post : Bytes}
    (h : Ahead c (fl :: (ant ++ v :: post))) (h1 : bit fl 1 = true)
    (hl : ant.length = (bit fl 0).toNat) (hv : v ∉ known) :
    decTag known c = .error ⟨.unknownProtocol v, c.base + c.pos + 1 + ant.length⟩ := by
  have hant := readIf_antenna h.skip_one hl
  have hproto := h.skip_one.skip.readProto_unknown hv
  simp only [decTag, h.readU8, hant, h1, readIf_true, hproto, except_bind_ok]
  simp [Except.map, Nat.add_assoc]

theorem bit_or_0x80 {fl : Byte} {i : Nat} (hi : i < 7) : bit (fl ||| 0x80) i = bit fl i := by
  revert fl i; decide

theorem bit_or_0x80_7 (fl : Byte) : bit (fl ||| 0x80) 7 = true := by
  revert fl; decide

/-- R121: flag bit 7 decides none of the fields. -/
theorem tagFields_or_0x80 (known : List Byte) (fl : Byte) :
    tagFields known (fl ||| 0x80) = tagFields known fl := by
  funext c
  simp only [tagFields, bit_or_0x80, Nat.reduceLT]

/-- R119: a record whose flag byte is known, its fields and then the check of flag bit 7. -/
theorem decTag_flags (known : List Byte) (pre post : Bytes) (base : Nat) (fl : Byte) :
    decTag known ⟨pre ++ fl :: post, base, pre.length⟩ =
      tagFields known fl ⟨pre ++ fl :: post, base, pre.length + 1⟩ >>= fun y =>
        if bit fl 7 then .error ⟨.embeddedCommand, y.2.base + y.2.pos⟩ else .ok y := by
  rw [decTag_eq, (ahead_of_append pre (fl :: post) base).readU8]
  rfl

/-- R121: the fields of a record are read alike with flag bit 7 clear and set. -/
theorem tagFields_twin (known : List Byte) (pre post : Bytes) (base : Nat) (fl : Byte) :
    TwinResult (tagFields known fl ⟨pre ++ fl :: post, base, pre.length + 1⟩)
      (tagFields known (fl ||| 0x80) ⟨pre ++ (fl ||| 0x80) :: post, base, pre.length + 1⟩) := by
  rw [tagFields_or_0x80]
  refine SeesAhead.tagFields known fl ⟨rfl, rfl, by simp, ?_⟩
  simp [← List.drop_drop]

theorem TwinResult.eq_ok {α : Type} {x y : Except Fail (α × Cursor)} (h : TwinResult x y) {v : α}
    {c : Cursor} (hx : x = .ok (v, c)) : ∃ d, y = .ok (v, d) ∧ Twin c d := by
  cases h with
  | ok v' htwin => cases hx; exact ⟨_, rfl, htwin⟩
  | error f => cases hx

theorem TwinResult.eq_error {α : Type} {x y : Except Fail (α × Cursor)} (h : TwinResult x y)
    {f : Fail} (hx : x = .error f) : y = .error f := by
  cases h with
  | ok v htwin => cases hx
  | error f' => exact hx

section
variable (known : List Byte) (pre post : Bytes) (base : Nat) {fl : Byte} (h7 : bit fl 7 = false)
include h7

/-- R119: with flag bit 7 clear a record is its flag byte and its fields. -/
theorem decTag_noEmbedded : decTag known ⟨pre ++ fl :: post, base, pre.length⟩
    = tagFields known fl ⟨pre ++ fl :: post, base, pre.length + 1⟩ := by
  rw [decTag_flags, h7]
  cases tagFields known fl ⟨pre ++ fl :: post, base, pre.length + 1⟩ <;> rfl

/-- R121: a record that decodes with bit 7 clear fails at its end with bit 7 set. -/
theorem decTag_embedded_of_ok {t : TagRecord} {c : Cursor}
    (h : decTag known ⟨pre ++ fl :: post, base, pre.length⟩ = .ok (t, c)) :
    decTag known ⟨pre ++ (fl ||| 0x80) :: post, base, pre.length⟩
      = .error ⟨.embeddedCommand, base + c.pos⟩ := by
  have hbase : c.base = base := (decTag_advances h).base
  rw [decTag_noEmbedded known pre post base h7] at h
  obtain ⟨d, hd, htwin⟩ := (tagFields_twin known pre post base fl).eq_ok h
  rw [decTag_flags, hd, bit_or_0x80_7, except_bind_ok, if_pos rfl, htwin.base, htwin.pos, hbase]

/-- R121: a record that fails with bit 7 clear fails alike with bit 7 set. -/
theorem decTag_embedded_of_error {f : Fail}
    (h : decTag known ⟨pre ++ fl :: post, base, pre.length⟩ = .error f) :
    decTag known ⟨pre ++ (fl ||| 0x80) :: post, base, pre.length⟩ = .error f := by
  rw [decTag_noEmbedded known pre post base h7] at h
  rw [decTag_flags, (tagFields_twin known pre post base fl).eq_error h, except_bind_error]

end

/-- R121: no record with flag bit 7 set decodes. -/
theorem decTag_ok_bit7 {known : List Byte} {c c' : Cursor} {t : TagRecord} {fl : Byte}
    (h : decTag known c = .ok (t, c')) (hfl : c.buf[c.pos]? = some fl) : bit fl 7 = false := by
  obtain ⟨⟨fl', hfl', -, -, -, -, -, h7⟩, -, -⟩ := decTag_size h
  cases hfl.symm.trans hfl'
  exact h7

/-- Settles O35: the fields do not depend on bit 7, and its check comes after them. -/
theorem embeddedCommandFails : Obligations.EmbeddedCommandFails :=
  ⟨fun known pre post base _ _ _ h7 => decTag_embedded_of_ok known pre post base h7,
    fun known pre post base _ _ h7 => decTag_embedded_of_error known pre post base h7,
    fun _ _ _ _ _ => decTag_ok_bit7⟩

end Sys2Proof.Machine
end

section
/-! Proofs for the statements of 43_response_decoders.md about RX_PUSH and DECODE_RESP: the checks before the command decoder, every error of it, and what a success writes. -/

namespace Sys2Proof.Machine

open Sys2Proof.Config

/-! ### RX_PUSH (R111) -/

/-- R56: RX_PUSH past RX_BUF_MAX is refused. -/
theorem rxPush_refused {bytes : Bytes} {s : State}
    (h : within s.cfg.rxBufMax (s.rxbuf.length + bytes.length) = false) :
    exec (.rxPush bytes) s = .refused .rxOverflow :=
  if_neg (Bool.eq_false_iff.mp h)

/-- R113: what DECODE_RESP does with an error of any origin. -/
theorem decodeResp_of_error {s : State} {f : Fail} (h : decodeResponse s = .error f) :
    exec .decodeResp s = .next (raise f.reason f.pos (dropExchange s)) :=
  decodeResp_next.mpr (.inl ⟨f, h, rfl⟩)

theorem dropExchange_of_notAwaiting {s : State} (ha : s.await = false) :
    dropExchange s = { s with needResync := true, rxbuf := [], curPos := 0 } := by
  simp [dropExchange, clearRx, ha]

/-- R111, R114: with nothing outstanding, the epilogue finds AWAIT at 0. -/
theorem decodeResp_notAwaiting {s : State} (ha : s.await = false) :
    exec .decodeResp s = .next { s with
      needResync := true, rxbuf := [], curPos := 0
      status := ⟨.invalidState, 0x03, 0⟩, resValid := false } := by
  rw [decodeResp_of_error (decodeResponse_notAwaiting ha), dropExchange_of_notAwaiting ha]
  rfl

/-- Settles O22: the two outcomes of RX_PUSH, neither of which writes AWAIT. -/
theorem rxPushAppends : Obligations.RxPushAppends := by
  refine fun bytes s => ⟨fun hw => rxPush_next.mpr ⟨hw, rfl⟩, rxPush_refused, fun t ha h => ?_⟩
  obtain ⟨-, rfl⟩ := rxPush_next.mp h
  exact decodeResp_notAwaiting ha

/-- Settles O23: appending is associative, and so are the lengths the capacity check adds. -/
theorem splitPushEqualsOnePush : Obligations.SplitPushEqualsOnePush := by
  intro a b s t h
  obtain ⟨-, rfl⟩ := rxPush_next.mp h
  simp [exec, execRxPush, okWith, Nat.add_assoc]

/-! ### The frame of DECODE_RESP (R113, R114) -/

/-- Settles O26: only the epilogue leaves an error in STATUS. -/
theorem decodeRespErrorEpilogue : Obligations.DecodeRespErrorEpilogue := by
  intro s t h herr
  obtain ⟨f, -, rfl⟩ | ⟨r, mm, rid, -, rfl⟩ := decodeResp_next.mp h
  · rfl
  · exact absurd rfl herr

/-- Settles O42: the epilogue writes no result register, and a response those of its kind. -/
theorem decodeRespFrame : Obligations.DecodeRespFrame := by
  intro s t h
  obtain ⟨f, -, rfl⟩ | ⟨r, mm, rid, -, rfl⟩ := decodeResp_next.mp h
  · exact ⟨rfl, fun _ => ⟨rfl, rfl⟩, fun _ => ⟨rfl, rfl, rfl, rfl⟩⟩
  · cases r with
    | rscb n data =>
      exact ⟨rfl, fun hk => hk.elim (absurd rfl) (absurd rfl), fun _ => ⟨rfl, rfl, rfl, rfl⟩⟩
    | inv stop total count tags =>
      exact ⟨rfl, fun _ => ⟨rfl, rfl⟩, fun hk => hk.elim (absurd rfl) (absurd rfl)⟩
    | resyncAck => exact ⟨rfl, fun _ => ⟨rfl, rfl⟩, fun _ => ⟨rfl, rfl, rfl, rfl⟩⟩

/-! ### The checks of DECODE_RESP, in order (R113) -/

/-- R115: the sequence bit fits, or a mismatch is no error. -/
theorem seqCheck_passes {s : State} {pcb : Byte}
    (hs : s.cfg.seqCheck ≠ .error ∨ bit pcb 6 = (s.pendSeq ^^ s.cfg.respSeqToggle)) :
    ¬(seqBitDiffers s.cfg s.pendSeq pcb = true ∧ s.cfg.seqCheck = .error) := by
  rw [seqBitDiffers_iff]
  tauto

section
variable {s : State} {pcb rid : Byte} {info : Bytes}

theorem decodeSBlock_wrongBlockType (h : pcbKind s.cfg pcb ≠ .sBlock) :
    decodeSBlock s ⟨pcb, rid, info⟩ = .error ⟨.wrongBlockType, 0⟩ := if_pos h

theorem decodeIBlock_wrongBlockType (h : pcbKind s.cfg pcb ≠ .iBlock) :
    decodeIBlock s ⟨pcb, rid, info⟩ = .error ⟨.wrongBlockType, 0⟩ := if_pos h

variable (hpk : pcbKind s.cfg pcb = .iBlock)
include hpk

theorem decodeIBlock_chaining (h5 : bit pcb 5 = true) :
    decodeIBlock s ⟨pcb, rid, info⟩ = .error ⟨.chaining, 0⟩ := by
  simp [decodeIBlock, hpk, h5]

variable (h5 : bit pcb 5 = false)
include h5

theorem decodeIBlock_seqMismatch (hc : s.cfg.seqCheck = .error)
    (h6 : bit pcb 6 ≠ (s.pendSeq ^^ s.cfg.respSeqToggle)) :
    decodeIBlock s ⟨pcb, rid, info⟩ = .error ⟨.seqMismatch, 0⟩ := by
  simp [decodeIBlock, hpk, h5, hc, seqBitDiffers_iff.mpr h6]

variable (hs : s.cfg.seqCheck ≠ .error ∨ bit pcb 6 = (s.pendSeq ^^ s.cfg.respSeqToggle))
include hs

theorem decodeIBlock_noCommandCode :
    decodeIBlock s ⟨pcb, rid, []⟩ = .error ⟨.noCommandCode, 2⟩ := by
  simp [decodeIBlock, hpk, h5, seqCheck_passes hs]

theorem decodeIBlock_commandMismatch {cmd : Byte} {p : Bytes} (hc : cmd ≠ s.pendCmd) :
    decodeIBlock s ⟨pcb, rid, cmd :: p⟩ = .error ⟨.commandMismatch, 2⟩ := by
  simp [decodeIBlock, hpk, h5, seqCheck_passes hs, hc]

end

/-- R113: what DECODE_RESP does with an error of the checks for an I-Block exchange. -/
theorem decodeResp_of_iBlock_error {s : State} {pcb rid : Byte} {info : Bytes} {f : Fail}
    (ha : s.await = true) (hk : s.pendKind = .iBlock) (hb : s.rxbuf = pcb :: rid :: info)
    (h : decodeIBlock s ⟨pcb, rid, info⟩ = .error f) :
    exec .decodeResp s = .next (raise f.reason f.pos (dropExchange s)) :=
  decodeResp_of_error (by rw [decodeResponse_iBlock ha hk hb, h]; rfl)

/-- R113: the same for a resync exchange. -/
theorem decodeResp_of_sBlock_error {s : State} {pcb rid : Byte} {info : Bytes} {f : Fail}
    (ha : s.await = true) (hk : s.pendKind = .sBlock) (hb : s.rxbuf = pcb :: rid :: info)
    (h : decodeSBlock s ⟨pcb, rid, info⟩ = .error f) :
    exec .decodeResp s = .next (raise f.reason f.pos (dropExchange s)) :=
  decodeResp_of_error (by rw [decodeResponse_sBlock ha hk hb, h]; rfl)

/-- R113: a command without a response codec. -/
theorem decodeParams_noResponseCodec {c : Params} {cmd : Byte} (p : Bytes) (h1 : cmd ≠ 0x01)
    (h31 : cmd ≠ 0x31) : decodeParams c cmd p = .error ⟨.noResponseCodec, 2⟩ :=
  (if_neg h1).trans (if_neg h31)

theorem decodeParams_rscb (c : Params) (p : Bytes) : decodeParams c 0x01 p = decRscb p 3 := rfl

theorem decodeParams_inv (c : Params) (p : Bytes) :
    decodeParams c 0x31 p = decInv c.knownAirProtocols p 3 := rfl

/-- Settles O25: each check where those before it pass, and then the errors of the command decoder. -/
theorem decodeRespChecksInOrder : Obligations.DecodeRespChecksInOrder := by
  rintro s _ rfl
  refine ⟨fun ha => decodeResp_of_error (decodeResponse_notAwaiting ha), fun ha =>
    ⟨fun hl => decodeResp_of_error (decodeResponse_short ha hl), fun pcb rid info hb =>
      ⟨fun hk hpk => decodeResp_of_sBlock_error ha hk hb (decodeSBlock_wrongBlockType hpk),
        fun hk => ?_⟩⟩⟩
  have fails : ∀ {f : Fail}, decodeIBlock s ⟨pcb, rid, info⟩ = .error f →
      exec .decodeResp s = .next (raise f.reason f.pos (dropExchange s)) :=
    decodeResp_of_iBlock_error ha hk hb
  refine ⟨fun hpk => fails (decodeIBlock_wrongBlockType hpk), fun hpk =>
    ⟨fun h5 => fails (decodeIBlock_chaining hpk h5), fun h5 =>
      ⟨fun hc h6 => fails (decodeIBlock_seqMismatch hpk h5 hc h6), fun hs =>
        ⟨?_, ?_⟩⟩⟩⟩
  · rintro rfl
    exact fails (decodeIBlock_noCommandCode hpk h5 hs)
  rintro cmd p rfl
  refine ⟨fun hc => fails (decodeIBlock_commandMismatch hpk h5 hs hc), ?_⟩
  rintro rfl
  have codec : ∀ {f : Fail}, decodeParams s.cfg s.pendCmd p = .error f →
      exec .decodeResp s = .next (raise f.reason f.pos (dropExchange s)) :=
    decodeResp_of_params_error ha hk hpk h5 hs hb
  refine ⟨fun h1 h31 => codec (decodeParams_noResponseCodec p h1 h31), fun h1 f hf => codec ?_,
    fun h31 f hf => codec ?_⟩
  · rwa [h1, decodeParams_rscb]
  · rwa [h31, decodeParams_inv]

/-- Settles O29: an S-class PCB is all that the response to a resync is checked for. -/
theorem decodeRespAcknowledgesResync : Obligations.DecodeRespAcknowledgesResync := by
  intro s pcb rid info ha hk hpk hb
  refine decodeResp_next.mpr (.inr ⟨.resyncAck, false, rid, ?_, rfl⟩)
  exact decodeResponse_eq_ok.mpr
    ⟨ha, pcb, info, hb, .inl ⟨hk, decodeSBlock_eq_ok.mpr ⟨hpk, rfl, rfl⟩⟩⟩

/-! ### The warning flags: sequence bit and resource id (R115, R116) -/

/-- R98, R115: DECODE_RESP leaves SEQ. -/
theorem decodeResp_seq {s t : State} (h : exec .decodeResp s = .next t) : t.seq = s.seq := by
  obtain ⟨f, -, rfl⟩ | ⟨r, mm, rid, -, rfl⟩ := decodeResp_next.mp h
  · rfl
  · exact writeResponse_seq r s

/-- R113: a success has read an outstanding frame; it sets RID_MISMATCH by its resource id, and SEQ_MISMATCH, for an I-Block exchange, by its sequence bit, which ERROR accepts only where it fits. -/
theorem decodeResp_ok_flags {s t : State} {pcb rid : Byte} {info : Bytes}
    (hb : s.rxbuf = pcb :: rid :: info) (h : exec .decodeResp s = .next t)
    (hok : t.status.err = .none) :
    t.ridMismatch = (rid != s.pendRid) ∧ (s.pendKind = .iBlock →
      t.seqMismatch = (seqBitDiffers s.cfg s.pendSeq pcb && s.cfg.seqCheck == .flag) ∧
      (s.cfg.seqCheck = .error → seqBitDiffers s.cfg s.pendSeq pcb = false)) := by
  obtain ⟨f, -, rfl⟩ | ⟨r, mm, rid', hr, rfl⟩ := decodeResp_next.mp h
  · exact absurd hok (raise_err_ne_none _ _ _)
  obtain ⟨-, pcb', info', hb', hread⟩ := decodeResponse_eq_ok.mp hr
  cases hb.symm.trans hb'
  refine ⟨by simp, fun hk => ?_⟩
  obtain ⟨hk', -⟩ | ⟨-, hread⟩ := hread
  · cases hk.symm.trans hk'
  · obtain ⟨-, -, hmm, rfl, -⟩ := decodeIBlock_eq_ok.mp hread
    exact ⟨by simp, fun hc => by_contra fun hd => hmm (by simpa using hd) hc⟩

/-- What STATUS holds after a decode, whatever it read (60_exceptions.md R140, R141). -/
def decodeStatus {α : Type} : Except Fail α → Status
  | .error f => ⟨f.reason.kind, f.reason.sub, f.pos⟩
  | .ok _ => ⟨.none, 0, 0⟩

@[simp] theorem decodeStatus_map {α β : Type} (x : Except Fail α) (g : α → β) :
    decodeStatus (x.map g) = decodeStatus x := by
  cases x <;> rfl

theorem decodeResp_status {s t : State} (h : exec .decodeResp s = .next t) :
    t.status = decodeStatus (decodeResponse s) := by
  obtain ⟨f, hf, rfl⟩ | ⟨r, mm, rid, hr, rfl⟩ := decodeResp_next.mp h
  · rw [hf]; rfl
  · rw [hr]; rfl

section
variable {s : State} {pcb rid : Byte} {info : Bytes} (hb : s.rxbuf = pcb :: rid :: info)
  (ha : s.await = true)
include hb ha

theorem decodeStatus_iBlock (hk : s.pendKind = .iBlock) :
    decodeStatus (decodeResponse s) = decodeStatus (decodeIBlock s ⟨pcb, rid, info⟩) := by
  rw [decodeResponse_iBlock ha hk hb, decodeStatus_map]

theorem decodeStatus_sBlock (hk : s.pendKind = .sBlock) :
    decodeStatus (decodeResponse s) = decodeStatus (decodeSBlock s ⟨pcb, rid, info⟩) := by
  rw [decodeResponse_sBlock ha hk hb, decodeStatus_map]

/-- R116: neither body reads the resource id. -/
theorem decodeStatus_otherRid (rid' : Byte) :
    decodeStatus (decodeResponse { s with rxbuf := pcb :: rid' :: info })
      = decodeStatus (decodeResponse s) := by
  have hrx : ({ s with rxbuf := pcb :: rid' :: info } : State).rxbuf = pcb :: rid' :: info := rfl
  obtain hk | hk : s.pendKind = .iBlock ∨ s.pendKind = .sBlock := by cases s.pendKind <;> simp
  · rw [decodeStatus_iBlock hrx ha hk, decodeStatus_iBlock hb ha hk]
    rfl
  · rw [decodeStatus_sBlock hrx ha hk, decodeStatus_sBlock hb ha hk]
    rfl

end

/-- Settles O31: the status is that of the body of the decode, which the resource id does not enter. -/
theorem chainingFailsAndRidIsFlagged : Obligations.ChainingFailsAndRidIsFlagged := by
  intro s t pcb rid info ha hb h
  refine ⟨fun hk hpk h5 => ?_, fun hok => (decodeResp_ok_flags hb h hok).1, fun rid' t' h' => ?_⟩
  · rw [decodeResp_status h, decodeStatus_iBlock hb ha hk, decodeIBlock_chaining hpk h5]
    rfl
  · rw [decodeResp_status h', decodeResp_status h, decodeStatus_otherRid hb ha]

/-- R138: the sub-reason of SEQ_MISMATCH is its own among those of its kind. -/
theorem reason_eq_seqMismatch {r : Reason} (hk : r.kind = .invalidState) (hsub : r.sub = 0x06) :
    r = .seqMismatch := by
  revert hk hsub
  cases r <;> simp [Reason.kind, Reason.sub]

/-- R138: no command decoder raises SEQ_MISMATCH. -/
theorem decodeParams_ne_seqMismatch {c : Params} {cmd : Byte} {p : Bytes} {f : Fail}
    (h : decodeParams c cmd p = .error f) : f.reason ≠ .seqMismatch := by
  intro hr
  unfold decodeParams at h
  split at h
  · simpa [hr] using decRscb_reason h
  · split at h
    · simpa [RecordReason, hr] using decInv_reason h
    · cases h; cases hr

/-- R115: SEQ_MISMATCH is raised under ERROR only. -/
theorem seqCheck_of_seqMismatch {s : State} {fr : Frame} {f : Fail}
    (h : decodeIBlock s fr = .error f) (hr : f.reason = .seqMismatch) :
    s.cfg.seqCheck = .error := by
  unfold decodeIBlock at h
  split at h
  · cases h; cases hr
  split at h
  · cases h; cases hr
  split at h
  · next hc => exact hc.2
  split at h
  · cases h; cases hr
  split at h
  · cases h; cases hr
  · exact absurd hr (decodeParams_ne_seqMismatch (except_map_eq_error.mp h))

theorem seqCheck_of_decodeStatus {s : State} {fr : Frame} {pos : Nat}
    (h : decodeStatus (decodeIBlock s fr) = ⟨.invalidState, 0x06, pos⟩) :
    s.cfg.seqCheck = .error := by
  cases hx : decodeIBlock s fr with
  | ok x => rw [hx] at h; cases h
  | error f =>
    rw [hx] at h
    obtain ⟨hk, hsub, -⟩ := Status.mk.inj h
    exact seqCheck_of_seqMismatch hx (reason_eq_seqMismatch hk hsub)

/-- Settles O30: the flags of a success, and the one check that raises SEQ_MISMATCH. -/
theorem sequenceBitCrossCheck : Obligations.SequenceBitCrossCheck := by
  intro s t pcb rid info ha hk hb h
  have hst : t.status = decodeStatus (decodeIBlock s ⟨pcb, rid, info⟩) :=
    (decodeResp_status h).trans (decodeStatus_iBlock hb ha hk)
  refine ⟨decodeResp_seq h, fun hok => ?_, fun hc pos hm =>
    hc (seqCheck_of_decodeStatus (hst.symm.trans hm)), fun hc hpk h5 h6 => ?_⟩
  · obtain ⟨-, hflags⟩ := decodeResp_ok_flags hb h hok
    obtain ⟨hmm, herr⟩ := hflags hk
    refine ⟨fun hc => ?_, fun hc => ?_, fun hc => ?_⟩
    · simp [hmm, hc]
    · simp [hmm, hc, seqBitDiffers]
    · simpa [seqBitDiffers] using herr hc
  · rw [hst, decodeIBlock_seqMismatch hpk h5 hc h6]
    rfl

/-! ### Inventory responses (R118, R120) -/

/-- Settles O28: past the checks, `dec_inv` reads the response on the wire back. -/
theorem decodeRespReadsInventory : Obligations.DecodeRespReadsInventory := by
  intro s pcb rid stop total recs ha hk hcmd hpk h5 hs hn hok hb
  rw [← hcmd] at hb
  refine decodeResp_of_params_ok ha hk hpk h5 hs hb
    (r := .inv stop total (BitVec.ofNat 8 recs.length) (recs.map Prod.snd)) ?_
  rw [hcmd, decodeParams_inv, decInv_wire hn hok]

/-- R120: the first bad record of a response, when its air-protocol type id is not a recognized code. -/
theorem decInv_unknownProtocol {known : List Byte} {stop count fl v : Byte} {total : Half}
    {recs : List (Byte × TagRecord)} {ant post : Bytes} (base : Nat)
    (hok : ∀ r ∈ recs, tagOk known r.2 = true) (hn : recs.length < count.toNat)
    (h1 : bit fl 1 = true) (hl : ant.length = (bit fl 0).toNat) (hv : v ∉ known) :
    decInv known (stop :: (le16 total ++ count ::
        (recs.flatMap (fun r => tagWire r.1 r.2) ++ fl :: (ant ++ v :: post)))) base
      = .error ⟨.unknownProtocol v,
          base + 5 + (recs.flatMap fun r => tagWire r.1 r.2).length + ant.length⟩ := by
  have hbody := ahead_cursor (stop :: (le16 total ++ count ::
    (recs.flatMap (fun r => tagWire r.1 r.2) ++ fl :: (ant ++ v :: post)))) base
  have hrecs := hbody.skip_one.skip.skip_one
  have hbad := decTag_unknownProtocol hrecs.skip h1 hl hv
  refine decInv_error (decTags_wire_error hok hn hrecs (hbad.trans ?_))
  simp only [Cursor.skip_base, Cursor.skip_pos, cursor, le16_length, Except.error.injEq,
    Fail.mk.injEq, true_and]
  omega

/-- Settles O34: the record alone, and as the first bad one of a response. -/
theorem unknownProtocolIsReported : Obligations.UnknownProtocolIsReported := by
  refine ⟨fun known pre post ant base fl v h1 hl hv =>
    decTag_unknownProtocol (ahead_of_append pre _ base) h1 hl hv, ?_⟩
  rintro s pcb rid stop count fl v total recs _ ant post ha hk hcmd hpk h5 hs hok hn rfl h1 hl hv hb
  rw [← hcmd] at hb
  have hbad := decInv_unknownProtocol (stop := stop) (total := total) (post := post) 3 hok hn h1 hl hv
  rw [← decodeParams_inv, ← hcmd] at hbad
  exact decodeResp_of_params_error ha hk hpk h5 hs hb hbad

end Sys2Proof.Machine
end

section
/-! Proofs for the statements of 44_cursor.md: CUR_SET, the CUR_RD ops, the laws of a cursor read, and the frame of the ops that only read. -/

namespace Sys2Proof.Machine

open Sys2Proof.Config

/-! ### CUR_SET (R131) -/

/-- Settles O36: the two outcomes of CUR_SET. -/
theorem curSetMovesTheCursor : Obligations.CurSetMovesTheCursor := fun _ _ =>
  ⟨fun h => curSet_next.mpr (.inr ⟨h, rfl⟩), fun h => curSet_next.mpr (.inl ⟨h, rfl⟩)⟩

/-! ### The CUR_RD ops (R132 to R135) -/

section
variable {α : Type} {rd : Reader α} {s : State}

/-- R132: the host cursor's read succeeds, and with it the op. -/
theorem curRead_of_ok {v : α} {c : Cursor} (h : rd (hostCursor s) = .ok (v, c))
    (data : α → CurData) :
    curRead rd data s = .next (okWith .cur { s with curPos := c.pos, curData := data v }) :=
  curRead_next.mpr (.inr ⟨v, c, h, rfl⟩)

/-- R127, R132: a read past the end of RXBUF raises at CUR_POS, the host cursor's base being 0. -/
theorem curRead_of_field
    (h : rd (hostCursor s) = .error ⟨.field, (hostCursor s).base + (hostCursor s).pos⟩)
    (data : α → CurData) : curRead rd data s = .next (raise .field s.curPos s) :=
  curRead_next.mpr (.inl ⟨_, h, by simp [hostCursor]⟩)

end

/-- R127, R132: the host cursor's read of the bytes that stand at CUR_POS. -/
theorem readN_hostCursor_eq_ok {n : Nat} {s : State} {pre bytes post : Bytes}
    (hb : s.rxbuf = pre ++ bytes ++ post) (hp : pre.length = s.curPos) (hn : bytes.length = n) :
    readN n (hostCursor s) = .ok (bytes, ⟨s.rxbuf, 0, s.curPos + n⟩) := by
  subst hn
  rw [hostCursor, hb, ← hp, List.append_assoc]
  exact readN_middle pre bytes post 0

/-- Settles O37: the two outcomes of a read of `n` bytes. -/
theorem curRdReadsBytes : Obligations.CurRdReadsBytes := fun _ _ =>
  ⟨fun _ _ _ hb hp hn => curRead_of_ok (readN_hostCursor_eq_ok hb hp hn) .bytes,
    fun hl => curRead_of_field (readN_eq_error.mpr ⟨hl, rfl⟩) .bytes⟩

/-- 20_memory.md R50: two bytes as a number, low byte first. -/
theorem u16le_eq_ofNat (b0 b1 : Byte) :
    u16le b0 b1 = BitVec.ofNat 16 (b0.toNat + 256 * b1.toNat) := by
  rw [← u16le_toNat, BitVec.ofNat_toNat, BitVec.setWidth_eq]

/-- 20_memory.md R50: four bytes as a number, low byte first. -/
theorem u32le_eq_ofNat (b0 b1 b2 b3 : Byte) :
    u32le b0 b1 b2 b3 = BitVec.ofNat 32
      (b0.toNat + 256 * b1.toNat + 65536 * b2.toNat + 16777216 * b3.toNat) := by
  rw [← u32le_toNat, BitVec.ofNat_toNat, BitVec.setWidth_eq]

/-- Settles O38: for each width, the read that succeeds and the read past the end. -/
theorem curRdReadsLowByteFirst : Obligations.CurRdReadsLowByteFirst := by
  intro s
  refine ⟨fun b0 h0 => ?_, fun hl => ?_, fun b0 b1 h0 h1 => ?_, fun hl => ?_,
    fun b0 b1 b2 b3 h0 h1 h2 h3 => ?_, fun hl => ?_⟩
  · exact curRead_of_ok (readU8_eq_ok.mpr ⟨h0, rfl⟩) .u8
  · exact curRead_of_field (readU8_eq_error.mpr ⟨hl, rfl⟩) .u8
  · rw [← u16le_eq_ofNat]
    exact curRead_of_ok (readU16_eq_ok.mpr ⟨b0, b1, h0, h1, rfl, rfl⟩) .u16
  · exact curRead_of_field (readU16_eq_error.mpr ⟨hl, rfl⟩) .u16
  · rw [← u32le_eq_ofNat]
    exact curRead_of_ok (readU32_eq_ok.mpr ⟨b0, b1, b2, b3, h0, h1, h2, h3, rfl, rfl⟩) .u32
  · exact curRead_of_field (readU32_eq_error.mpr ⟨hl, rfl⟩) .u32

/-! ### The laws of a cursor read (R136) -/

/-- R136 (a): two reads in a row are one read of both lengths. -/
theorem readN_add {a b : Nat} {c c1 c2 : Cursor} {x y : Bytes} (ha : readN a c = .ok (x, c1))
    (hb : readN b c1 = .ok (y, c2)) : readN (a + b) c = .ok (x ++ y, c2) := by
  obtain ⟨-, rfl, rfl⟩ := readN_eq_ok.mp ha
  obtain ⟨hl, rfl, rfl⟩ := readN_eq_ok.mp hb
  rw [Nat.add_assoc] at hl
  exact readN_eq_ok.mpr ⟨hl, slice_add c.buf c.pos a b, by rw [Nat.add_assoc]⟩

theorem isCurRead_of_mem {i : Instr}
    (hi : i ∈ [Instr.curRd8, .curRd16, .curRd32] ∨ ∃ n, i = .curRd n) : isCurRead i = true := by
  obtain hi | ⟨n, rfl⟩ := hi
  · revert i; decide
  · rfl

/-- R136 (c): a read at the host cursor that raises leaves the cursor and RXBUF. -/
theorem curRead_op_raises {i : Instr} (hi : isCurRead i = true) {s t : State}
    (h : exec i s = .next t) (herr : t.status.err ≠ .none) :
    t.curPos = s.curPos ∧ t.rxbuf = s.rxbuf := by
  obtain ⟨r, p, rfl⟩ | ⟨p, d, -, -, rfl⟩ := curRead_op_next hi h
  · exact ⟨rfl, rfl⟩
  · exact absurd rfl herr

/-- R136 (c), for CUR_SET. -/
theorem curSet_raises {p : Word} {s t : State} (h : exec (.curSet p) s = .next t)
    (herr : t.status.err ≠ .none) : t.curPos = s.curPos ∧ t.rxbuf = s.rxbuf := by
  obtain ⟨-, rfl⟩ | ⟨-, rfl⟩ := curSet_next.mp h
  · exact ⟨rfl, rfl⟩
  · exact absurd rfl herr

/-! ### Where DECODE_RESP raises Truncated (R136 (d)) -/

/-- R138: FIELD is the one Truncated reason among those of a record. -/
theorem RecordReason.eq_field {r : Reason} (h : RecordReason r) (ht : r.kind = .truncated) :
    r = .field := by
  obtain rfl | ⟨b, rfl⟩ | rfl := h
  · rfl
  · cases ht
  · cases ht

theorem decodeParams_truncated {c : Params} {cmd : Byte} {p : Bytes} {f : Fail}
    (h : decodeParams c cmd p = .error f) (ht : f.reason.kind = .truncated) :
    f.reason = .field := by
  unfold decodeParams at h
  split at h
  · obtain hr | hr := decRscb_reason h
    · exact hr
    · rw [hr] at ht; cases ht
  split at h
  · obtain hr | hr := decInv_reason h
    · exact hr.eq_field ht
    · rw [hr] at ht; cases ht
  · cases h; cases ht

/-- R113: an I-Block decode is short by a field, or by the command code of an empty information field. -/
theorem decodeIBlock_truncated {s : State} {pcb rid : Byte} {info : Bytes} {f : Fail}
    (h : decodeIBlock s ⟨pcb, rid, info⟩ = .error f) (ht : f.reason.kind = .truncated) :
    f.reason = .field ∨ (f.reason = .noCommandCode ∧ info = []) := by
  unfold decodeIBlock at h
  split at h
  · cases h; cases ht
  split at h
  · cases h; cases ht
  split at h
  · cases h; cases ht
  cases info with
  | nil => cases h; exact .inr ⟨rfl, rfl⟩
  | cons cmd p =>
    dsimp only at h
    split at h
    · cases h; cases ht
    · exact .inl (decodeParams_truncated (except_map_eq_error.mp h) ht)

theorem decodeSBlock_not_truncated {s : State} {fr : Frame} {f : Fail}
    (h : decodeSBlock s fr = .error f) : f.reason.kind ≠ .truncated := by
  unfold decodeSBlock at h
  split at h
  · cases h; decide
  · cases h

/-- R136 (d): the reasons of a Truncated error, by the length of RXBUF. -/
theorem decodeResponse_truncated {s : State} {f : Fail} (h : decodeResponse s = .error f)
    (ht : f.reason.kind = .truncated) :
    f.reason = .field ∨ (f.reason = .envelope ∧ s.rxbuf.length < 2) ∨
      (f.reason = .noCommandCode ∧ s.rxbuf.length = 2) := by
  cases ha : s.await with
  | false =>
    rw [decodeResponse_notAwaiting ha] at h
    cases h; cases ht
  | true =>
    match hb : s.rxbuf with
    | [] | [_] =>
      have hl : s.rxbuf.length < 2 := by simp [hb]
      rw [decodeResponse_short ha hl] at h
      cases h; exact .inr (.inl ⟨rfl, by simp⟩)
    | pcb :: rid :: info =>
      cases hk : s.pendKind with
      | sBlock =>
        rw [decodeResponse_sBlock ha hk hb] at h
        exact absurd ht (decodeSBlock_not_truncated (except_map_eq_error.mp h))
      | iBlock =>
        rw [decodeResponse_iBlock ha hk hb] at h
        obtain hr | ⟨hr, rfl⟩ := decodeIBlock_truncated (except_map_eq_error.mp h) ht
        · exact .inl hr
        · exact .inr (.inr ⟨hr, rfl⟩)

theorem decodeResp_truncated {s t : State} (h : exec .decodeResp s = .next t)
    (ht : t.status.err = .truncated) :
    t.status.sub = 0x03 ∨ (t.status.sub = 0x01 ∧ s.rxbuf.length < 2) ∨
      (t.status.sub = 0x02 ∧ s.rxbuf.length = 2) := by
  obtain ⟨f, hf, rfl⟩ | ⟨r, mm, rid, -, rfl⟩ := decodeResp_next.mp h
  · rw [raise_status] at ht ⊢
    obtain hr | ⟨hr, hl⟩ | ⟨hr, hl⟩ := decodeResponse_truncated hf ht
    · exact .inl (by rw [hr]; rfl)
    · exact .inr (.inl ⟨by rw [hr]; rfl, hl⟩)
    · exact .inr (.inr ⟨by rw [hr]; rfl, hl⟩)
  · cases ht

/-- Settles O39: one law per part. -/
theorem cursorReadLaws : Obligations.CursorReadLaws := by
  refine ⟨fun _ _ _ _ _ _ _ => readN_add, fun n c c' x h => ?_, fun i s t hi h herr => ?_,
    fun _ _ => decodeResp_truncated⟩
  · exact ⟨(readN_advances h).le, (readN_advances h).buf⟩
  · obtain hi | hi | ⟨p, rfl⟩ := hi
    · exact curRead_op_raises (isCurRead_of_mem (.inl hi)) h herr
    · exact curRead_op_raises (isCurRead_of_mem (.inr hi)) h herr
    · exact curSet_raises h herr

/-! ### The frame of the ops that only read -/

/-- Settles O40: what each op can do names the registers it writes. -/
theorem readingOpsFrame : Obligations.ReadingOpsFrame := by
  refine fun s t => ⟨fun i hi h => ?_, fun p h => ?_, fun h => ?_, fun bytes h => ?_⟩
  · obtain ⟨r, p, rfl⟩ | ⟨p, d, -, -, rfl⟩ := curRead_op_next (isCurRead_of_mem hi) h <;> rfl
  · obtain ⟨-, rfl⟩ | ⟨-, rfl⟩ := curSet_next.mp h <;> rfl
  · obtain ⟨f, -, rfl⟩ | ⟨f, -, rfl⟩ := decodeEnv_next.mp h <;> rfl
  · obtain ⟨-, rfl⟩ := rxPush_next.mp h
    rfl

end Sys2Proof.Machine
end

section
/-! Proofs for the statements of 60_exceptions.md: how an op ends, by `raise` or by `ok`, and the codes the host then reads. -/

namespace Sys2Proof.Machine

/-! ### How an op ends (R140, R141) -/

/-- R140: the state a raise of the op starts from. The writes of DECODE_RESP and TIMEOUT stand; every other op has made none. -/
def beforeRaise : Instr → State → State
  | .decodeResp, s | .timeout, s => dropExchange s
  | _, s => s

theorem beforeRaise_of_others {i : Instr} (hd : i ≠ .decodeResp) (ht : i ≠ .timeout) (s : State) :
    beforeRaise i s = s := by
  cases i with
  | decodeResp => exact absurd rfl hd
  | timeout => exact absurd rfl ht
  | _ => rfl

theorem beforeRaise_of_exceptions {i : Instr} (hi : i = .decodeResp ∨ i = .timeout) (s : State) :
    beforeRaise i s = dropExchange s := by
  obtain rfl | rfl := hi <;> rfl

theorem NoOther.beforeRaise {i : Instr} (hi : NoOther i) (s : State) : beforeRaise i s = s :=
  beforeRaise_of_others hi.decodeResp hi.timeout s

/-- R140, R141: every op that answers a next state ends by `ok`, or by `raise` from the state R140 names. -/
theorem exec_ends {i : Instr} {s t : State} (h : exec i s = .next t) :
    (∃ k u, t = okWith k u) ∨ ∃ r p, t = raise r p (beforeRaise i s) := by
  cases exec_effect h with
  | timedOut | envFailed | respFailed | curSetFailed => exact .inr ⟨_, _, rfl⟩
  | notBuilt _ _ r hb => exact .inr ⟨r, 0, by rw [(build_noOther hb).2.beforeRaise]⟩
  | curFailed _ _ r p hc => exact .inr ⟨r, p, by rw [(curRead_noOther hc).2.beforeRaise]⟩
  | _ => exact .inl ⟨_, _, rfl⟩

/-- Settles O43: of the two ends of an op only `raise` leaves ERR nonzero. -/
theorem errorsArePrecise : Obligations.ErrorsArePrecise := by
  intro i s t h herr
  obtain ⟨k, u, rfl⟩ | ⟨r, p, rfl⟩ := exec_ends h
  · exact absurd rfl herr
  · refine ⟨fun hd ht => ?_, fun hi => ?_⟩
    · rw [beforeRaise_of_others hd ht]; rfl
    · rw [beforeRaise_of_exceptions hi]; rfl

/-- Settles O44: `ok` and `raise` both write STATUS and RES_VALID. -/
theorem resValidTellsSuccess : Obligations.ResValidTellsSuccess := by
  intro i s t h
  obtain ⟨k, u, rfl⟩ | ⟨r, p, rfl⟩ := exec_ends h
  · exact ⟨fun _ => ⟨rfl, rfl⟩, absurd rfl⟩
  · exact ⟨fun hok => absurd hok (raise_err_ne_none r p _), fun _ => rfl⟩

/-! ### The codes of STATUS (R137, R138) -/

theorem hostRead_err_raise (r : Reason) (pos : Nat) (s : State) :
    hostRead .err (raise r pos s) = .next (.num r.kind.code.toNat) :=
  hostRead_of_always rfl _

theorem hostRead_errSub_raise (r : Reason) (pos : Nat) (s : State) :
    hostRead .errSub (raise r pos s) = .next (.num r.sub.toNat) :=
  hostRead_of_always rfl _

/-- Settles O58: STATUS is always readable, and each row's code and sub-reason are computed. -/
theorem statusCodesFollowTheTables : Obligations.StatusCodesFollowTheTables := by
  refine fun pos s => ⟨fun p hp => ?_, fun b => ?_, fun r => hostRead_of_always rfl _,
    fun k => hostRead_of_always rfl _⟩
  · have hrow : p.1.kind.code.toNat = p.2.1 ∧ p.1.sub.toNat = p.2.2 := by revert p; decide
    obtain ⟨hcode, hsub⟩ := hrow
    exact ⟨by rw [hostRead_err_raise, hcode], by rw [hostRead_errSub_raise, hsub]⟩
  · exact ⟨hostRead_err_raise _ pos s, hostRead_errSub_raise _ pos s⟩

end Sys2Proof.Machine
end

section
/-! Proofs for the statements of 70_reset_and_hazards.md: what is refused, the waiting block, the resync that is due, and the fault of a run. -/

namespace Sys2Proof.Machine

open Sys2Proof.Config

/-! ### Before an op: the configuration check and the empty port (R153, R155) -/

/-- Settles O10: clause by clause, the capacity bounded or not; the distinct stop codes are six inequations. -/
theorem badConfigurationIsRefused : Obligations.BadConfigurationIsRefused := by
  refine ⟨fun c => ?_, fun s hc => by rw [step, fetch_badConfig hc]⟩
  cases hm : c.rxBufMax with
  | none => simp [configOk, hm, cmdRscb, cmdInv, and_assoc]
  | some m => simp [configOk, hm, cmdRscb, cmdInv, and_assoc]

/-- Settles O9: `fetch` finds nothing to take. -/
theorem emptyPortWaits : Obligations.EmptyPortWaits := by
  intro s hc hp
  rw [step, fetch_idle hc hp]

/-! ### A resync that is due (R160) -/

/-- R87, R160: with a resync due every build meets an error. -/
theorem buildError_ne_none_of_needResync {info : Bytes} {s : State} (hn : s.needResync = true) :
    buildError info s ≠ none := by
  intro he
  obtain ⟨-, -, -, -, hn', -⟩ := buildError_eq_none.mp he
  rw [hn] at hn'
  cases hn'

/-- R160 for one op: RESYNC is not there, and the builds raise. -/
theorem exec_keeps_tx_of_needResync {i : Instr} {s t : State} (h : exec i s = .next t)
    (hn : s.needResync = true) (hi : clearsNeedResync i = false) :
    t.tx = s.tx ∧ t.txLast = s.txLast := by
  cases exec_effect h with
  | opened | resynced => cases hi
  | built _ _ _ _ _ he => exact absurd he (buildError_ne_none_of_needResync hn)
  | respRead _ r => exact ⟨writeResponse_tx r s, writeResponse_txLast r s⟩
  | _ => exact ⟨rfl, rfl⟩

/-- Settles O47, by induction on the ops: each leaves the resync due and both records of the frames as they were. -/
theorem noFrameUntilResync : Obligations.NoFrameUntilResync := by
  intro is
  induction is with
  | nil =>
    intro s t hn _ h
    cases h
    exact ⟨hn, rfl, rfl⟩
  | cons i is ih =>
    intro s t hn hi h
    obtain ⟨u, hu, hrun⟩ := execAll_cons.mp h
    obtain ⟨hi, his⟩ := List.forall_mem_cons.mp hi
    obtain ⟨htx, hlast⟩ := exec_keeps_tx_of_needResync hu hn hi
    have hnu : u.needResync = true := (exec_needResync_iff hu hi).mpr (.inl hn)
    obtain ⟨hnt, htx', hlast'⟩ := ih u t hnu his hrun
    exact ⟨hnt, htx'.trans htx, hlast'.trans hlast⟩

/-! ### Refusals (R165 (c)) -/

/-- The ops that are refused, each with the capacity it is past (R56, R88, R165 (c); RESYNC by log 7). -/
inductive PastCapacity : Instr → State → Refusal → Prop
  | rxPush {bytes : Bytes} {s : State}
      (h : within s.cfg.rxBufMax (s.rxbuf.length + bytes.length) = false) :
      PastCapacity (.rxPush bytes) s .rxOverflow
  | resync {rid : Byte} {s : State} (h : within s.cfg.txFrameMax 2 = false) :
      PastCapacity (.resync rid) s .txFrameTooLong
  | buildReq {rid : Byte} {info : Bytes} {s : State}
      (h : within s.cfg.txFrameMax (requestFrame rid info s).length = false) :
      PastCapacity (.buildReq rid info) s .txFrameTooLong
  | encRscb {rid b1 count : Byte} {s : State}
      (h : within s.cfg.txFrameMax (requestFrame rid (rscbInfo b1 count) s).length = false) :
      PastCapacity (.encRscb rid b1 count) s .txFrameTooLong
  | encInv {rid opt : Byte} {ant : Option Bytes} {stop : Option StopTrigger} {s : State}
      (h : within s.cfg.txFrameMax (requestFrame rid (invInfo s.cfg opt ant stop) s).length = false) :
      PastCapacity (.encInv rid opt ant stop) s .txFrameTooLong

/-- An unbounded capacity is never exceeded (00_scope.md R8). -/
@[simp] theorem within_none (n : Nat) : within none n = true := rfl

theorem not_pastCapacity_of_unbounded {i : Instr} {s : State} {r : Refusal}
    (htx : s.cfg.txFrameMax = none) (hrx : s.cfg.rxBufMax = none) : ¬PastCapacity i s r := by
  rintro (h | h | h | h | h) <;> simp [htx, hrx] at h

/-- The build core answers a next state, or its frame is past TX_FRAME_MAX. -/
theorem buildCore_next_or_refused (rid : Byte) (info : Bytes) (s : State) :
    (∃ t, buildCore rid info s = .next t) ∨
      (within s.cfg.txFrameMax (requestFrame rid info s).length = false ∧
        buildCore rid info s = .refused .txFrameTooLong) := by
  cases h : buildCore rid info s with
  | next t => exact .inl ⟨t, rfl⟩
  | fault e => exact absurd h (buildCore_ne_fault rid info s e)
  | refused r =>
    obtain ⟨-, hw, rfl⟩ := buildCore_eq_refused.mp h
    exact .inr ⟨hw, rfl⟩

/-- A read at the host cursor always answers a next state: a missing byte raises (44_cursor.md R132). -/
theorem curRead_total {α : Type} (rd : Reader α) (data : α → CurData) (s : State) :
    ∃ t, curRead rd data s = .next t := by
  unfold curRead
  split <;> exact ⟨_, rfl⟩

/-- Every op answers a next state, or is refused past its capacity. -/
theorem exec_next_or_pastCapacity (i : Instr) (s : State) :
    (∃ t, exec i s = .next t) ∨ ∃ r, PastCapacity i s r ∧ exec i s = .refused r := by
  cases i with
  | openSession | abandon | forceSeq v => exact .inl ⟨_, rfl⟩
  | curRd n | curRd8 | curRd16 | curRd32 => exact .inl (curRead_total _ _ s)
  | timeout =>
    cases ha : s.await with
    | true => exact .inl ⟨_, timeout_next.mpr (.inl ⟨ha, rfl⟩)⟩
    | false => exact .inl ⟨_, timeout_next.mpr (.inr ⟨ha, rfl⟩)⟩
  | decodeEnv =>
    cases hf : decodeEnvelope s.rxbuf with
    | error f => exact .inl ⟨_, decodeEnv_next.mpr (.inl ⟨f, hf, rfl⟩)⟩
    | ok f => exact .inl ⟨_, decodeEnv_next.mpr (.inr ⟨f, hf, rfl⟩)⟩
  | decodeResp =>
    cases hf : decodeResponse s with
    | error f => exact .inl ⟨_, decodeResp_next.mpr (.inl ⟨f, hf, rfl⟩)⟩
    | ok x => exact .inl ⟨_, decodeResp_next.mpr (.inr ⟨x.1, x.2.1, x.2.2, hf, rfl⟩)⟩
  | curSet p =>
    obtain hp | hp := lt_or_ge s.rxbuf.length p.toNat
    · exact .inl ⟨_, curSet_next.mpr (.inl ⟨hp, rfl⟩)⟩
    · exact .inl ⟨_, curSet_next.mpr (.inr ⟨hp, rfl⟩)⟩
  | rxPush bytes =>
    cases hw : within s.cfg.rxBufMax (s.rxbuf.length + bytes.length) with
    | true => exact .inl ⟨_, rxPush_next.mpr ⟨hw, rfl⟩⟩
    | false => exact .inr ⟨_, .rxPush hw, rxPush_refused hw⟩
  | resync rid =>
    cases hw : within s.cfg.txFrameMax 2 with
    | true => exact .inl ⟨_, resync_next.mpr ⟨hw, rfl⟩⟩
    | false => exact .inr ⟨_, .resync hw, resync_refused.mpr ⟨hw, rfl⟩⟩
  | buildReq rid info =>
    exact (buildCore_next_or_refused rid info s).imp_right fun ⟨hw, h⟩ => ⟨_, .buildReq hw, h⟩
  | encRscb rid b1 count =>
    cases h6 : bit b1 6 with
    | true => exact .inl ⟨_, (reservedOperandBitsRaise s).1 rid b1 count h6⟩
    | false =>
      rw [exec_encRscb h6]
      exact (buildCore_next_or_refused rid _ s).imp_right fun ⟨hw, h⟩ => ⟨_, .encRscb hw, h⟩
  | encInv rid opt ant stop =>
    obtain h16 | h16 := lt_or_ge opt.toNat 16
    · rw [exec_encInv h16]
      split
      · exact .inl ⟨_, rfl⟩
      split
      · exact .inl ⟨_, rfl⟩
      · exact (buildCore_next_or_refused rid _ s).imp_right fun ⟨hw, h⟩ => ⟨_, .encInv hw, h⟩
    · exact .inl ⟨_, (reservedOperandBitsRaise s).2 rid opt ant stop h16⟩

/-- Settles O56: each part reads off one of the two outcomes of an op. -/
theorem opsAreRefusedOnlyPastACapacity : Obligations.OpsAreRefusedOnlyPastACapacity := by
  intro i s
  obtain ⟨t, ht⟩ | ⟨r, hr, h⟩ := exec_next_or_pastCapacity i s
  · simp [ht]
  · refine ⟨fun f hf => ?_, fun htx hrx => absurd hr (not_pastCapacity_of_unbounded htx hrx),
      fun r' h' => ?_⟩
    · rw [h] at hf; cases hf
    · rw [h] at h'
      cases h'
      cases hr with
      | rxPush hw => exact .inl ⟨rfl, _, rfl, hw⟩
      | resync hw => exact .inr ⟨rfl, .inl ⟨_, rfl, hw⟩⟩
      | buildReq hw => exact .inr ⟨rfl, .inr (.inl ⟨_, _, rfl, hw⟩)⟩
      | encRscb hw => exact .inr ⟨rfl, .inr (.inr (.inl ⟨_, _, _, rfl, hw⟩))⟩
      | encInv hw => exact .inr ⟨rfl, .inr (.inr (.inr ⟨_, _, _, _, rfl, hw⟩))⟩

/-! ### The fault of a run (R157, R165 (b)) -/

/-- The fault of a run depends on the two caller-error fields alone. -/
theorem runFaulty_iff {s : State} :
    runFaulty s = true ↔ s.callerErr = true ∨ s.callerErrPast = true := Bool.or_eq_true_iff

theorem endOfRun_eq_next {s : State} (h : runFaulty s = false) : endOfRun s = .next s :=
  if_neg (Bool.eq_false_iff.mp h)

/-- No op but OPEN_SESSION writes the record of a cleared CALLER_ERR (log 20). -/
theorem exec_callerErrPast {i : Instr} {s t : State} (h : exec i s = .next t)
    (hi : i ≠ .openSession) : t.callerErrPast = s.callerErrPast := by
  cases exec_effect h with
  | opened => exact absurd rfl hi
  | resynced rid => simp [resynced]
  | respRead _ r => exact writeResponse_callerErrPast r s
  | _ => rfl

/-- R157: the one thing that makes a run faulty is a build that succeeds with an exchange outstanding. -/
theorem exec_runFaulty_iff {i : Instr} {s t : State} (h : exec i s = .next t) :
    runFaulty t = true ↔
      runFaulty s = true ∨ (isBuild i = true ∧ t.status.err = .none ∧ s.await = true) := by
  by_cases hi : i = .openSession
  · subst hi
    cases h
    have hkept : runFaulty (okWith .none (resetInput s)) = runFaulty s := runFaulty_resetInput s
    simp [hkept, isBuild]
  · rw [runFaulty_iff, runFaulty_iff, exec_callerErr_iff h hi, exec_callerErrPast h hi]
    exact or_right_comm

/-- R165 (b): no step clears the fault of the run, whatever input it takes. -/
theorem step_keeps_runFaulty {s t : State} (h : step s = .next t) (hf : runFaulty s = true) :
    runFaulty t = true := by
  obtain ⟨-, ⟨-, rfl⟩ | ⟨-, -, rfl⟩ | ⟨-, -, -, -, -, rfl⟩ | ⟨-, -, i, -, -, he⟩⟩ := step_next h
  · exact hf
  · rw [runFaulty_resetInput]
    exact hf
  · exact hf
  · exact (exec_runFaulty_iff he).mpr (.inl hf)

/-- R165 (b), R166: nor does a run of any number of steps. -/
theorem runSteps_keeps_runFaulty : ∀ {k : Nat} {s t : State} {log : List Status},
    runSteps k s = .next (t, log) → runFaulty s = true → runFaulty t = true
  | 0, _, _, _, h, hf => by cases h; exact hf
  | _ + 1, _, _, _, h, hf => by
    obtain ⟨_, _, hstep, hrun, -⟩ := runSteps_succ.mp h
    exact runSteps_keeps_runFaulty hrun (step_keeps_runFaulty hstep hf)

/-- Settles O60. -/
theorem runFaultIsNeverCleared : Obligations.RunFaultIsNeverCleared :=
  ⟨fun _ _ _ h => exec_runFaulty_iff h, fun _ _ h => step_keeps_runFaulty h,
    fun _ _ _ _ hf h => endOfRun_eq_fault.mpr (runSteps_keeps_runFaulty h hf)⟩

/-- A disciplined list of ops, op by op. -/
theorem obeysAll_cons {i : Instr} {is : List Instr} {s u : State} (h : exec i s = .next u) :
    obeysAll (i :: is) s = true ↔ obeysExchange i s = true ∧ obeysAll is u = true := by
  simp [obeysAll, h]

/-- R157: the discipline keeps builds away from an outstanding exchange. -/
theorem await_of_obeysExchange {i : Instr} {s : State} (h : obeysExchange i s = true)
    (hb : isBuild i = true) : s.await = false := by
  simp only [obeysExchange, hb, Bool.not_true, Bool.false_or, Bool.and_eq_true,
    Bool.not_eq_true'] at h
  obtain ⟨⟨ha, -⟩, -⟩ := h
  exact ha

/-- R157: an op within the discipline faults no run. -/
theorem exec_keeps_faultless {i : Instr} {s t : State} (h : exec i s = .next t)
    (hd : obeysExchange i s = true) (hf : runFaulty s = false) : runFaulty t = false := by
  rw [← Bool.not_eq_true, exec_runFaulty_iff h]
  rintro (hs | ⟨hb, -, ha⟩)
  · exact absurd hs (by simp [hf])
  · exact absurd ha (by simp [await_of_obeysExchange hd hb])

/-- R157: nor does a disciplined list of ops. -/
theorem execAll_keeps_faultless : ∀ {is : List Instr} {s t : State}, execAll is s = .next t →
    obeysAll is s = true → runFaulty s = false → runFaulty t = false
  | [], _, _, h, _, hf => by cases h; exact hf
  | _ :: _, _, _, h, hd, hf => by
    obtain ⟨_, hu, hrun⟩ := execAll_cons.mp h
    obtain ⟨hi, his⟩ := (obeysAll_cons hu).mp hd
    exact execAll_keeps_faultless hrun his (exec_keeps_faultless hu hi hf)

/-- Settles O51. -/
theorem disciplinedHostIsNotFaulty : Obligations.DisciplinedHostIsNotFaulty :=
  ⟨fun _ _ _ hf hd h => endOfRun_eq_next (execAll_keeps_faultless h hd hf),
    fun _ => ⟨fun h => endOfRun_eq_fault.mpr (runFaulty_iff.mpr h),
      fun hc hp => endOfRun_eq_next (by simp [runFaulty, hc, hp])⟩⟩

end Sys2Proof.Machine
end
